-- ==== Sys2Proof/Word.lean ====
section
/-! DEFINITION. The plain data types of the CHIP-8 core: bytes, 16-bit words, opcode fields and
register numbers (10_state.md R21, R23, R24; 30_encoding.md R75). -/

namespace Sys2Proof

/-- An 8-bit value: a memory byte, a `V` register, a timer (R21, R28, R50). -/
abbrev Byte := BitVec 8

/-- A 16-bit value: an opcode, `I`, `pc`, a stack entry (R23, R24, R26, R73). -/
abbrev Word := BitVec 16

/-- A 4-bit opcode field that is not a register number: `nibble`, or four bits the decoder ignores
(R75, R86). -/
abbrev Nibble := BitVec 4

/-- The 12-bit opcode field `addr` (R75). -/
abbrev Addr := BitVec 12

/-- The number of a `V` register: the value 0..15 of a field `x` or `y` (R21, R76). -/
abbrev RegIdx := Fin 16

end Sys2Proof
end

