-- ==== Sys2Proof/Syntax.lean ====
section
/-! DEFINITION. The 34 instructions (30_encoding.md R84), one constructor per row of
spec/opcode_table.json, in the table's order. -/

namespace Sys2Proof

/-- The closed set of operations (R84). The arguments are the opcode fields of R75 that the row leaves
open. A field the row ignores (R86) is kept as the last argument, because a fault record carries the raw
opcode (R200) and so that no bit of a word is lost; no effect depends on it (log entry 12). -/
inductive Instr where
  /-- CLEAR-SCREEN `0-E0` (R170); `x` ignored. -/
  | cls (x : RegIdx)
  /-- RETURN `0-EE` (R103); `x` ignored. -/
  | ret (x : RegIdx)
  /-- JUMP `1nnn` (R101). -/
  | jp (addr : Addr)
  /-- CALL `2nnn` (R102). -/
  | call (addr : Addr)
  /-- SKIP-IF-EQUAL-IMM `3xnn` (R105). -/
  | seImm (x : RegIdx) (nn : Byte)
  /-- SKIP-IF-NOT-EQUAL-IMM `4xnn` (R106). -/
  | sneImm (x : RegIdx) (nn : Byte)
  /-- SKIP-IF-EQUAL-REG `5xy-` (R107); the low nibble ignored. -/
  | seReg (x y : RegIdx) (n : Nibble)
  /-- LOAD-IMM `6xnn` (R120). -/
  | ldImm (x : RegIdx) (nn : Byte)
  /-- ADD-IMM `7xnn` (R121). -/
  | addImm (x : RegIdx) (nn : Byte)
  /-- LOAD-REG `8xy0` (R131). -/
  | ldReg (x y : RegIdx)
  /-- OR `8xy1` (R132). -/
  | orReg (x y : RegIdx)
  /-- AND `8xy2` (R133). -/
  | andReg (x y : RegIdx)
  /-- XOR `8xy3` (R134). -/
  | xorReg (x y : RegIdx)
  /-- ADD-REG `8xy4` (R135). -/
  | addReg (x y : RegIdx)
  /-- SUB `8xy5` (R136). -/
  | sub (x y : RegIdx)
  /-- SHIFT-RIGHT `8x-6` (R137); `y` ignored. -/
  | shr (x y : RegIdx)
  /-- SUB-REVERSED `8xy7` (R138). -/
  | subn (x y : RegIdx)
  /-- SHIFT-LEFT `8x-E` (R139); `y` ignored. -/
  | shl (x y : RegIdx)
  /-- SKIP-IF-NOT-EQUAL-REG `9xy-` (R108); the low nibble ignored. -/
  | sneReg (x y : RegIdx) (n : Nibble)
  /-- LOAD-INDEX `Annn` (R150). -/
  | ldI (addr : Addr)
  /-- JUMP-WITH-OFFSET `Bnnn` (R104). -/
  | jpV0 (addr : Addr)
  /-- RANDOM-AND `Cxnn` (R122). -/
  | rnd (x : RegIdx) (nn : Byte)
  /-- DRAW-SPRITE `Dxyn` (R171). -/
  | drw (x y : RegIdx) (n : Nibble)
  /-- SKIP-IF-KEY-PRESSED `Ex9E` (R180). -/
  | skp (x : RegIdx)
  /-- SKIP-IF-KEY-NOT-PRESSED `Ex--` (R181); the low byte ignored, but never 0x9E. -/
  | sknp (x : RegIdx) (nn : Byte)
  /-- GET-DELAY-TIMER `Fx07` (R183). -/
  | ldVxDt (x : RegIdx)
  /-- WAIT-FOR-KEY `Fx0A` (R182). -/
  | ldVxK (x : RegIdx)
  /-- SET-DELAY-TIMER `Fx15` (R184). -/
  | ldDtVx (x : RegIdx)
  /-- SET-SOUND-TIMER `Fx18` (R185). -/
  | ldStVx (x : RegIdx)
  /-- ADD-TO-INDEX `Fx1E` (R151). -/
  | addIVx (x : RegIdx)
  /-- LOAD-FONT-ADDR `Fx29` (R152). -/
  | ldFVx (x : RegIdx)
  /-- STORE-BCD `Fx33` (R153). -/
  | ldBVx (x : RegIdx)
  /-- STORE-REGISTERS `Fx55` (R154). -/
  | ldMemVx (x : RegIdx)
  /-- LOAD-REGISTERS `Fx65` (R155). -/
  | ldVxMem (x : RegIdx)
  deriving DecidableEq, Repr

/-- The operation identifier, the normative name of an instruction (R84, R88). -/
def Instr.operation : Instr → String
  | .cls _ => "CLEAR-SCREEN"
  | .ret _ => "RETURN"
  | .jp _ => "JUMP"
  | .call _ => "CALL"
  | .seImm _ _ => "SKIP-IF-EQUAL-IMM"
  | .sneImm _ _ => "SKIP-IF-NOT-EQUAL-IMM"
  | .seReg _ _ _ => "SKIP-IF-EQUAL-REG"
  | .ldImm _ _ => "LOAD-IMM"
  | .addImm _ _ => "ADD-IMM"
  | .ldReg _ _ => "LOAD-REG"
  | .orReg _ _ => "OR"
  | .andReg _ _ => "AND"
  | .xorReg _ _ => "XOR"
  | .addReg _ _ => "ADD-REG"
  | .sub _ _ => "SUB"
  | .shr _ _ => "SHIFT-RIGHT"
  | .subn _ _ => "SUB-REVERSED"
  | .shl _ _ => "SHIFT-LEFT"
  | .sneReg _ _ _ => "SKIP-IF-NOT-EQUAL-REG"
  | .ldI _ => "LOAD-INDEX"
  | .jpV0 _ => "JUMP-WITH-OFFSET"
  | .rnd _ _ => "RANDOM-AND"
  | .drw _ _ _ => "DRAW-SPRITE"
  | .skp _ => "SKIP-IF-KEY-PRESSED"
  | .sknp _ _ => "SKIP-IF-KEY-NOT-PRESSED"
  | .ldVxDt _ => "GET-DELAY-TIMER"
  | .ldVxK _ => "WAIT-FOR-KEY"
  | .ldDtVx _ => "SET-DELAY-TIMER"
  | .ldStVx _ => "SET-SOUND-TIMER"
  | .addIVx _ => "ADD-TO-INDEX"
  | .ldFVx _ => "LOAD-FONT-ADDR"
  | .ldBVx _ => "STORE-BCD"
  | .ldMemVx _ => "STORE-REGISTERS"
  | .ldVxMem _ => "LOAD-REGISTERS"

/-- The same instruction with every ignored field as the assembler emits it (R89): zero, except the
low byte 0xA1 of SKIP-IF-KEY-NOT-PRESSED. -/
def Instr.canonical : Instr → Instr
  | .cls _ => .cls 0
  | .ret _ => .ret 0
  | .jp a => .jp a
  | .call a => .call a
  | .seImm x nn => .seImm x nn
  | .sneImm x nn => .sneImm x nn
  | .seReg x y _ => .seReg x y 0
  | .ldImm x nn => .ldImm x nn
  | .addImm x nn => .addImm x nn
  | .ldReg x y => .ldReg x y
  | .orReg x y => .orReg x y
  | .andReg x y => .andReg x y
  | .xorReg x y => .xorReg x y
  | .addReg x y => .addReg x y
  | .sub x y => .sub x y
  | .shr x _ => .shr x 0
  | .subn x y => .subn x y
  | .shl x _ => .shl x 0
  | .sneReg x y _ => .sneReg x y 0
  | .ldI a => .ldI a
  | .jpV0 a => .jpV0 a
  | .rnd x nn => .rnd x nn
  | .drw x y n => .drw x y n
  | .skp x => .skp x
  | .sknp x _ => .sknp x 0xA1
  | .ldVxDt x => .ldVxDt x
  | .ldVxK x => .ldVxK x
  | .ldDtVx x => .ldDtVx x
  | .ldStVx x => .ldStVx x
  | .addIVx x => .addIVx x
  | .ldFVx x => .ldFVx x
  | .ldBVx x => .ldBVx x
  | .ldMemVx x => .ldMemVx x
  | .ldVxMem x => .ldVxMem x

end Sys2Proof
end

