-- ==== Sys2Proof/WellFormed.lean ====
section
/-! DEFINITION. Which terms of `Instr` are instructions. The field types carry every bound (R76: every
value of `x` and `y` is legal); one check is left. -/

namespace Sys2Proof

/-- R82, R181: SKIP-IF-KEY-NOT-PRESSED is every 0xE opcode whose low byte is NOT 0x9E (that byte is
SKIP-IF-KEY-PRESSED). -/
def Instr.wf : Instr → Bool
  | .sknp _ nn => nn != 0x9E
  | _ => true

end Sys2Proof
end

