-- ==== Sys2Proof/Decode.lean ====
section
/-! DEFINITION. The instruction decoder (30_encoding.md R75 to R87), total over the 65536 opcodes, and
the encoder written from the same table (R84). -/

namespace Sys2Proof

/-- Why bytes are no instruction. -/
inductive DecodeError where
  /-- The opcode selects no row: the "unknown" sentinel (R77, R85). The machine's answer is R201, R209. -/
  | unknownOpcode (opcode : Word)
  /-- Fewer than two bytes were given (R73). No fetch gives fewer. -/
  | truncated
  deriving DecidableEq, Repr

/-! ### The six fields of R75 -/

def upperNibble (w : Word) : Nibble := w.extractLsb' 12 4
def fieldX (w : Word) : RegIdx := (w.extractLsb' 8 4).toFin
def fieldY (w : Word) : RegIdx := (w.extractLsb' 4 4).toFin
def fieldN (w : Word) : Nibble := w.extractLsb' 0 4
def fieldByte (w : Word) : Byte := w.extractLsb' 0 8
def fieldAddr (w : Word) : Addr := w.extractLsb' 0 12

/-! ### The decode rules -/

/-- Decode rule 1, `upper_nibble = 0x0` (R78): the whole low byte selects. -/
def decodeZero (w : Word) : Except DecodeError Instr :=
  match fieldByte w with
  | 0xE0#8 => .ok (.cls (fieldX w))
  | 0xEE#8 => .ok (.ret (fieldX w))
  | _ => .error (.unknownOpcode w)

/-- Decode rule 3, `upper_nibble = 0x8` (R80): `nibble` selects. -/
def decodeAlu (w : Word) : Except DecodeError Instr :=
  match fieldN w with
  | 0x0#4 => .ok (.ldReg (fieldX w) (fieldY w))
  | 0x1#4 => .ok (.orReg (fieldX w) (fieldY w))
  | 0x2#4 => .ok (.andReg (fieldX w) (fieldY w))
  | 0x3#4 => .ok (.xorReg (fieldX w) (fieldY w))
  | 0x4#4 => .ok (.addReg (fieldX w) (fieldY w))
  | 0x5#4 => .ok (.sub (fieldX w) (fieldY w))
  | 0x6#4 => .ok (.shr (fieldX w) (fieldY w))
  | 0x7#4 => .ok (.subn (fieldX w) (fieldY w))
  | 0xE#4 => .ok (.shl (fieldX w) (fieldY w))
  | _ => .error (.unknownOpcode w)

/-- Decode rule 5, `upper_nibble = 0xE` (R82): `byte = 0x9E`, or any other byte. -/
def decodeKey (w : Word) : Except DecodeError Instr :=
  match fieldByte w with
  | 0x9E#8 => .ok (.skp (fieldX w))
  | _ => .ok (.sknp (fieldX w) (fieldByte w))

/-- Decode rule 6, `upper_nibble = 0xF` (R83): an exact match of `byte` in a closed table. -/
def decodeMisc (w : Word) : Except DecodeError Instr :=
  match fieldByte w with
  | 0x07#8 => .ok (.ldVxDt (fieldX w))
  | 0x0A#8 => .ok (.ldVxK (fieldX w))
  | 0x15#8 => .ok (.ldDtVx (fieldX w))
  | 0x18#8 => .ok (.ldStVx (fieldX w))
  | 0x1E#8 => .ok (.addIVx (fieldX w))
  | 0x29#8 => .ok (.ldFVx (fieldX w))
  | 0x33#8 => .ok (.ldBVx (fieldX w))
  | 0x55#8 => .ok (.ldMemVx (fieldX w))
  | 0x65#8 => .ok (.ldVxMem (fieldX w))
  | _ => .error (.unknownOpcode w)

/-- The decoder (R77): total; "unknown" is an answer, not a failure. Rules 2 (R79) and 4 (R81) look at
`upper_nibble` alone. -/
def decode (w : Word) : Except DecodeError Instr :=
  match upperNibble w with
  | 0x0#4 => decodeZero w
  | 0x1#4 => .ok (.jp (fieldAddr w))
  | 0x2#4 => .ok (.call (fieldAddr w))
  | 0x3#4 => .ok (.seImm (fieldX w) (fieldByte w))
  | 0x4#4 => .ok (.sneImm (fieldX w) (fieldByte w))
  | 0x5#4 => .ok (.seReg (fieldX w) (fieldY w) (fieldN w))
  | 0x6#4 => .ok (.ldImm (fieldX w) (fieldByte w))
  | 0x7#4 => .ok (.addImm (fieldX w) (fieldByte w))
  | 0x8#4 => decodeAlu w
  | 0x9#4 => .ok (.sneReg (fieldX w) (fieldY w) (fieldN w))
  | 0xA#4 => .ok (.ldI (fieldAddr w))
  | 0xB#4 => .ok (.jpV0 (fieldAddr w))
  | 0xC#4 => .ok (.rnd (fieldX w) (fieldByte w))
  | 0xD#4 => .ok (.drw (fieldX w) (fieldY w) (fieldN w))
  | 0xE#4 => decodeKey w
  | 0xF#4 => decodeMisc w
  | _ => .error (.unknownOpcode w)

/-- R56: the opcode of two bytes, the byte at the lower address first. -/
def opcodeOf (hi lo : Byte) : Word := hi ++ lo

/-- The byte of an opcode that stands at the lower address: bits 15:8 (R56). -/
def highByte (w : Word) : Byte := w.extractLsb' 8 8

/-- The byte of an opcode that stands at the higher address: bits 7:0 (R56). -/
def lowByte (w : Word) : Byte := w.extractLsb' 0 8

/-- The decoder on a sequence of bytes: the first instruction and the bytes after it (R73: every
instruction is one 16-bit word). -/
def decodeBytes : List Byte → Except DecodeError (Instr × List Byte)
  | hi :: lo :: rest => (decode (opcodeOf hi lo)).map fun i => (i, rest)
  | _ => .error .truncated

/-- What the decoder reads from an instruction whose bits are `w`, `nbits` of them given by the opcode
table: its two bytes laid out big-endian (R56) and given to `decodeBytes`. -/
def decodeTableWord (nbits w : Nat) : Option Instr :=
  let opcode : Word := BitVec.ofNat 16 (w % 2 ^ nbits)
  match decodeBytes [highByte opcode, lowByte opcode] with
  | .ok (i, _) => some i
  | .error _ => none

/-! ### The encoder -/

/-- The four opcode bits of a register number. -/
def regBits (x : RegIdx) : Nibble := BitVec.ofFin x

/-- Format `NNN` of R74. -/
def packNNN (op : Nibble) (addr : Addr) : Word := op ++ addr

/-- Formats `XNN`, `X` and `NONE` of R74. -/
def packXNN (op : Nibble) (x : RegIdx) (nn : Byte) : Word := op ++ regBits x ++ nn

/-- Formats `XY` and `XYN` of R74. -/
def packXYN (op : Nibble) (x y : RegIdx) (n : Nibble) : Word := op ++ regBits x ++ regBits y ++ n

/-- The opcode of an instruction, from the pattern of its row (R84). -/
def encode : Instr → Word
  | .cls x => packXNN 0x0 x 0xE0
  | .ret x => packXNN 0x0 x 0xEE
  | .jp addr => packNNN 0x1 addr
  | .call addr => packNNN 0x2 addr
  | .seImm x nn => packXNN 0x3 x nn
  | .sneImm x nn => packXNN 0x4 x nn
  | .seReg x y n => packXYN 0x5 x y n
  | .ldImm x nn => packXNN 0x6 x nn
  | .addImm x nn => packXNN 0x7 x nn
  | .ldReg x y => packXYN 0x8 x y 0x0
  | .orReg x y => packXYN 0x8 x y 0x1
  | .andReg x y => packXYN 0x8 x y 0x2
  | .xorReg x y => packXYN 0x8 x y 0x3
  | .addReg x y => packXYN 0x8 x y 0x4
  | .sub x y => packXYN 0x8 x y 0x5
  | .shr x y => packXYN 0x8 x y 0x6
  | .subn x y => packXYN 0x8 x y 0x7
  | .shl x y => packXYN 0x8 x y 0xE
  | .sneReg x y n => packXYN 0x9 x y n
  | .ldI addr => packNNN 0xA addr
  | .jpV0 addr => packNNN 0xB addr
  | .rnd x nn => packXNN 0xC x nn
  | .drw x y n => packXYN 0xD x y n
  | .skp x => packXNN 0xE x 0x9E
  | .sknp x nn => packXNN 0xE x nn
  | .ldVxDt x => packXNN 0xF x 0x07
  | .ldVxK x => packXNN 0xF x 0x0A
  | .ldDtVx x => packXNN 0xF x 0x15
  | .ldStVx x => packXNN 0xF x 0x18
  | .addIVx x => packXNN 0xF x 0x1E
  | .ldFVx x => packXNN 0xF x 0x29
  | .ldBVx x => packXNN 0xF x 0x33
  | .ldMemVx x => packXNN 0xF x 0x55
  | .ldVxMem x => packXNN 0xF x 0x65

end Sys2Proof
end

