-- ==== Sys2Proof/Config.lean ====
section
/-! DEFINITION. The fixed parameters of 00_scope.md R5, the open parameter `FONT` (R6, R52) and the
free value `rand8` (R6, R122). What is left open has no body: nothing can be proved about its value. -/

namespace Sys2Proof

/-- `MEM_SIZE` (R5): addresses 0x000 to 0xFFF. -/
abbrev Config.memSize : Nat := 4096

/-- `FONT_BYTES` (R5): the font table fills 0x000 to 0x04F (`FONT_BASE` = 0). -/
abbrev Config.fontBytes : Nat := 80

/-- `GLYPH_BYTES` (R5): bytes in the picture of one digit. -/
abbrev Config.glyphBytes : Nat := 5

/-- `ROM_START` (R5): the first ROM byte and the reset value of `pc`. -/
abbrev Config.romStart : Nat := 0x200

/-- `ROM_MAX` (R5): the longest ROM image, 4096 - 512. -/
abbrev Config.romMax : Nat := 3584

/-- `FONT` (R6, R52; decision D7): the 80 font bytes of the machine. The spec gives none of them, so
this constant has no body. Log entry 1. -/
opaque Config.font : Vector Byte 80

/-- The conventional font table of R52, which the spec marks as general knowledge (G1) and keeps for
tests. PRESUMED: nothing in the machine uses it; a test that draws a digit may. Log entry 1. -/
def Config.defaultFont : Vector Byte 80 := ⟨#[
  0xF0, 0x90, 0x90, 0x90, 0xF0,  0x20, 0x60, 0x20, 0x20, 0x70,
  0xF0, 0x10, 0xF0, 0x80, 0xF0,  0xF0, 0x10, 0xF0, 0x10, 0xF0,
  0x90, 0x90, 0xF0, 0x10, 0x10,  0xF0, 0x80, 0xF0, 0x10, 0xF0,
  0xF0, 0x80, 0xF0, 0x90, 0xF0,  0xF0, 0x10, 0x20, 0x40, 0x40,
  0xF0, 0x90, 0xF0, 0x90, 0xF0,  0xF0, 0x90, 0xF0, 0x10, 0xF0,
  0xF0, 0x90, 0xF0, 0x90, 0x90,  0xE0, 0x90, 0xE0, 0x90, 0xE0,
  0xF0, 0x80, 0x80, 0x80, 0xF0,  0xE0, 0x90, 0x90, 0x90, 0xE0,
  0xF0, 0x80, 0xF0, 0x80, 0xF0,  0xF0, 0x80, 0xF0, 0x80, 0x80], rfl⟩

/-- `rand8` (R6, R122; decision D24): the byte of the n-th draw of RANDOM-AND. A FREE VALUE: no body,
so whatever is proved holds for every sequence of draws. Log entry 3. -/
opaque Config.rand8 : Nat → Byte

end Sys2Proof
end

