-- ==== Sys2Proof/Machine/State.lean ====
section
/-! DEFINITION. The machine state (10_state.md R20 to R38) as plain data, the reasons a step can stop,
and the state after reset. -/

namespace Sys2Proof.Machine

/-- A fatal fault as the machine records it: the closed enumeration of R200 with the information each
carries (R207: symbolic names, no numbers). -/
inductive FaultRecord where
  /-- An unmapped opcode in strict mode (R209). -/
  | unknownOpcode (opcode pcFetch : Word)
  /-- CALL with 16 return addresses on the stack (R202). -/
  | stackOverflow (opcode pcFetch : Word)
  /-- RETURN with an empty stack (R203). -/
  | stackUnderflow (opcode pcFetch : Word)
  /-- An access above 0xFFF (R204): the lowest offending address; no opcode for a fetch. -/
  | memoryOutOfRange (address : Nat) (opcode : Option Word) (pcFetch : Word)
  /-- A key skip with `V[x] > 15` (R205). -/
  | keypadIndexOutOfRange (index : Byte) (opcode pcFetch : Word)
  deriving DecidableEq, Repr

/-- `memory` as its differences from the reset contents (R34, R51): addresses strictly rising, none
listed that holds its reset byte (`Memory.wf`). -/
abbrev Memory := List Host.Cell

/-- `display` (R31): 32 rows from the top, each of 64 cells from the left; true is on. -/
abbrev Display := Vector (Vector Bool 64) 32

/-- The machine state: the fields of R20 and the fault latch of R35, then three fields of the model's
own that carry the inputs of R37. -/
structure State where
  /-- `V[0x0]`..`V[0xF]` (R21). -/
  v : Vector Byte 16
  /-- The address register `I` (R23). -/
  i : Word
  /-- The program counter (R24). -/
  pc : Word
  /-- The 16 stack entries (R26). -/
  stack : Vector Word 16
  /-- The number of stack entries in use, 0..16 (R27). -/
  sp : Fin 17
  /-- The delay timer (R28). -/
  dt : Byte
  /-- The sound timer (R29). -/
  st : Byte
  /-- The 16 key states, true = pressed (R30). -/
  keypad : Vector Bool 16
  /-- The 64 × 32 pixel buffer (R31). -/
  display : Display
  /-- The dirty flag (R33). -/
  screenUpdated : Bool
  /-- The 4096 bytes of memory (R34). -/
  mem : Memory
  /-- The fault latch (R35). -/
  fault : Option FaultRecord
  /-- MODEL'S OWN: the parameter `FONT` of this machine (R6, R37, R52). No step writes it. -/
  font : Vector Byte 80
  /-- MODEL'S OWN: the driver's choice `STRICT_UNKNOWN` (R6, R37, R209). No step writes it. -/
  strictUnknown : Bool
  /-- MODEL'S OWN: how many draws RANDOM-AND has made; it only names the next free value (R37, R122). -/
  draws : Nat
  deriving DecidableEq, Repr

/-- Why the machine has no next state. -/
inductive Fault where
  /-- Raised by `step` on a machine whose fault latch is set: "while `fault` is not `none` the machine
  has no step" (R35, R71, R208). Safe: the machine stops exactly where the spec says it has no step. -/
  | machineFaulted (record : FaultRecord)
  deriving DecidableEq, Repr

/-- Why an instruction has no meaning. -/
inductive Refusal where
  /-- Raised by an arm of `exec` for an instruction without a meaning; no arm raises it. Safe. -/
  | notModelled (mnemonic : String)
  deriving DecidableEq, Repr

/-- R38, R240: the state after reset for a font, a strictness and a place in the sequence of draws. The
font table in memory is what unlisted addresses read as, so no address is listed. -/
def State.resetWith (font : Vector Byte 80) (strictUnknown : Bool) (draws : Nat) : State where
  v := Vector.replicate 16 0
  i := 0
  pc := 0x200
  stack := Vector.replicate 16 0
  sp := 0
  dt := 0
  st := 0
  keypad := Vector.replicate 16 false
  display := Vector.replicate 32 (Vector.replicate 64 false)
  screenUpdated := true
  mem := []
  fault := none
  font := font
  strictUnknown := strictUnknown
  draws := draws

/-- The machine right after reset (R38): the font is the open parameter, the mode the default,
non-strict (R201; log entries 1, 2, 4). -/
def State.reset : State := State.resetWith Config.font false 0

end Sys2Proof.Machine
end

