-- ==== Sys2Proof/Machine/Ops.lean ====
section
/-! DEFINITION. The named operations over registers, memory, stack, display and the fault latch: the
primitives of 00_scope.md R8. Every read and write of the machine goes through them. -/

namespace Sys2Proof.Machine

/-! ### Registers (R21, R23, R24, R28, R29) -/

/-- `V[x]`. -/
def State.getV (s : State) (x : RegIdx) : Byte := s.v[x]

/-- `V[x] <- b`. No register is hard-wired (R21). -/
def State.setV (s : State) (x : RegIdx) (b : Byte) : State := { s with v := s.v.set x b }

/-- `I <- w`. -/
def State.setI (s : State) (w : Word) : State := { s with i := w }

/-- `pc <- w`. Targets are not checked (R100). -/
def State.setPc (s : State) (w : Word) : State := { s with pc := w }

/-- `DT <- b`. -/
def State.setDt (s : State) (b : Byte) : State := { s with dt := b }

/-- `ST <- b`. -/
def State.setSt (s : State) (b : Byte) : State := { s with st := b }

/-- The step's own advance of `pc` (R70). -/
def State.advance (s : State) : State := s.setPc (s.pc + 2)

/-- `pc_fetch`, the address of the instruction that executes, from the already advanced `pc` (R8). -/
def State.pcFetch (s : State) : Word := s.pc - 2

/-- A skip: 2 more on the already advanced `pc` when the condition holds (R100). -/
def State.skipIf (s : State) (taken : Bool) : State :=
  if taken then s.setPc (s.pc + 2) else s

/-- A taken draw: the next one takes the next free value (R122). -/
def State.nextDraw (s : State) : State := { s with draws := s.draws + 1 }

/-! ### Memory (R50 to R57) -/

/-- What an unlisted address reads as: the reset contents (R38, R51), the font table at 0x000..0x04F and
zero elsewhere. -/
def Memory.initial (font : Vector Byte 80) (a : Nat) : Byte :=
  if h : a < Config.fontBytes then font[a] else 0

/-- The listed byte at an address. -/
def Memory.lookup : Memory → Nat → Option Byte
  | [], _ => none
  | (b, v) :: m, a => if b = a then some v else Memory.lookup m a

/-- The byte at an address. -/
def Memory.read (font : Vector Byte 80) (m : Memory) (a : Nat) : Byte :=
  (Memory.lookup m a).getD (Memory.initial font a)

/-- Lists a byte in address order, in place of the one listed there. -/
def Memory.insert : Memory → Nat → Byte → Memory
  | [], a, v => [(a, v)]
  | (b, w) :: m, a, v =>
    if a < b then (a, v) :: (b, w) :: m
    else if a = b then (a, v) :: m
    else (b, w) :: Memory.insert m a v

/-- Takes an address off the list. -/
def Memory.erase : Memory → Nat → Memory
  | [], _ => []
  | (b, w) :: m, a => if b = a then m else (b, w) :: Memory.erase m a

/-- Stores a byte, keeping the canonical form. The 4096 bytes are all there is (R50): a store outside
them changes nothing, and no instruction makes one (`lowestBad` stops it first). -/
def Memory.write (font : Vector Byte 80) (m : Memory) (a : Nat) (v : Byte) : Memory :=
  if a < Config.memSize then
    if v = Memory.initial font a then Memory.erase m a else Memory.insert m a v
  else m

/-- The canonical form: addresses strictly rising, all of them in the address space, and no entry equal
to what an unlisted address reads as. -/
abbrev Memory.wf (font : Vector Byte 80) (m : Memory) : Prop :=
  m.Pairwise (fun c d => c.1 < d.1) ∧ ∀ c ∈ m, c.1 < Config.memSize ∧ c.2 ≠ Memory.initial font c.1

/-- The byte of this machine at an address in range (the read half of R54). -/
def State.load (s : State) (a : Nat) : Byte := Memory.read s.font s.mem a

/-- Stores a byte at an address in range (the write half of R54). -/
def State.store (s : State) (a : Nat) (b : Byte) : State :=
  { s with mem := Memory.write s.font s.mem a b }

/-- Stores bytes at ascending addresses from `a` (R57). -/
def State.storeBytes (s : State) (a : Nat) : List Byte → State
  | [] => s
  | b :: bs => (s.store a b).storeBytes (a + 1) bs

/-- The bounds check of R54 for all `n` bytes from `base` at once: the lowest offending address, if
one of them is above 0xFFF. Addresses are unbounded integers (R55): nothing wraps. -/
def lowestBad (base n : Nat) : Option Nat :=
  if 0 < n ∧ Config.memSize < base + n then some (max base Config.memSize) else none

/-! ### The call stack (R26, R27) -/

/-- `Push(w)`; none is an overflow (`sp = 16`). -/
def State.push (s : State) (w : Word) : Option State :=
  if h : s.sp.val < 16 then
    some { s with stack := s.stack.set s.sp.val w, sp := ⟨s.sp.val + 1, by omega⟩ }
  else none

/-- `Pop()`: the top entry and the state without it; none is an underflow (`sp = 0`). The entry keeps
its stale value (R26). -/
def State.pop (s : State) : Option (Word × State) :=
  if h : 0 < s.sp.val then
    some (s.stack[s.sp.val - 1], { s with sp := ⟨s.sp.val - 1, by omega⟩ })
  else none

/-! ### The display (R31, R33) -/

/-- `Disp(c, r)`. -/
def Display.cell (d : Display) (c : Fin 64) (r : Fin 32) : Bool := (d[r])[c]

/-- `Disp(c, r) <- Disp(c, r) ^ 1`. -/
def Display.flip (d : Display) (c : Fin 64) (r : Fin 32) : Display :=
  d.set r ((d[r]).set c (!(d[r])[c]))

/-- The blank display. -/
def Display.blank : Display := Vector.replicate 32 (Vector.replicate 64 false)

/-- Replaces the display and sets the dirty flag, as every CLEAR-SCREEN and every DRAW-SPRITE does,
whether or not a cell changed (R33). -/
def State.setDisplay (s : State) (d : Display) : State := { s with display := d, screenUpdated := true }

/-! ### Fatal faults (R208, R211) -/

/-- TAKING A FATAL FAULT, for every instruction and for the fetch: the record is latched and nothing
else changes (R208, R211); `pc` is what it was, already advanced in the execute phase. There is no handler,
no saved `pc`, no mode and no return (R214, R215): the latched machine has no step, and only a new reset
clears it. -/
def State.raise (s : State) (r : FaultRecord) : State := { s with fault := some r }

/-- The effect of an instruction that accesses `n` bytes from `base`: every address is checked before
anything is written (R54, R204, R211). -/
def State.withRange (s : State) (i : Instr) (base n : Nat) (effect : State) : State :=
  match lowestBad base n with
  | some a => s.raise (.memoryOutOfRange a (some (encode i)) s.pcFetch)
  | none => effect

end Sys2Proof.Machine
end

