-- ==== Sys2Proof/Machine/Cycle.lean ====
section
/-! DEFINITION. What the instruction cycle of 30_encoding.md R70 does around an instruction: the fetch,
the fetch fault and the unknown opcode. -/

namespace Sys2Proof.Machine

/-- FETCH (R56, R58, R70): the big-endian opcode at `pc`, or the lowest address out of range. -/
def State.fetch (s : State) : Except Nat Word :=
  match lowestBad s.pc.toNat 2 with
  | some a => .error a
  | none => .ok (opcodeOf (s.load s.pc.toNat) (s.load (s.pc.toNat + 1)))

/-- A fetch fault (R58, R204, R211): `pc` has not been advanced and nothing else changes. -/
def State.fetchFault (s : State) (a : Nat) : State := s.raise (.memoryOutOfRange a none s.pc)

/-- An unknown opcode after the advance: reported and skipped (R201), or fatal in strict mode (R209). -/
def State.unknown (s : State) (opcode : Word) : State :=
  if s.strictUnknown then s.raise (.unknownOpcode opcode s.pcFetch) else s

/-- Places a 16-bit opcode at `pc`, high byte first (R56). -/
def State.placeOpcode (s : State) (opcode : Word) : State :=
  s.storeBytes s.pc.toNat [highByte opcode, lowByte opcode]

end Sys2Proof.Machine
end

