-- ==== Sys2Proof/Machine/Operands.lean ====
section
/-! DEFINITION. The operand forms of 30_encoding.md R76 and 43_index_memory.md: zero-extended
immediates, the data address `I + k`, and a key number taken from a register. -/

namespace Sys2Proof.Machine

/-- `zext_16(addr)` (R7, R76). -/
def zextAddr (addr : Addr) : Word := addr.setWidth 16

/-- `zext_16` of a byte (R7). -/
def zextByte (b : Byte) : Word := b.setWidth 16

/-- The data address `I + k`, an unbounded integer (R55). -/
def State.dataAddress (s : State) (k : Nat) : Nat := s.i.toNat + k

/-- The keypad cell a register value names; none above 15 (R180, R205). -/
def keyOf (b : Byte) : Option (Fin 16) :=
  if h : b.toNat < 16 then some ⟨b.toNat, h⟩ else none

/-- `Key(k)` (R30). -/
def State.key (s : State) (k : Fin 16) : Bool := s.keypad[k]

/-- The least pressed key (R182). -/
def State.leastKey (s : State) : Option (Fin 16) := (List.finRange 16).find? (fun k => s.key k)

/-- A skip on the key whose number is in `V[x]`, taken when its state is `pressed`; a number above 15
is a fatal fault (R180, R181, R205). -/
def State.keySkip (s : State) (i : Instr) (x : RegIdx) (pressed : Bool) : State :=
  match keyOf (s.getV x) with
  | some k => s.skipIf (s.key k == pressed)
  | none => s.raise (.keypadIndexOutOfRange (s.getV x) (encode i) s.pcFetch)

/-- `V[0]`..`V[x]`, inclusive (R154). -/
def State.regsThrough (s : State) (x : RegIdx) : List Byte := s.v.toList.take (x.val + 1)

/-- `V[k] <- memory[base + k]` for `k` in 0..x, inclusive (R155). -/
def State.loadRegs (s : State) (base : Nat) (x : RegIdx) : State :=
  { s with v := Vector.ofFn fun k => if k ≤ x then s.load (base + k.val) else s.v[k] }

end Sys2Proof.Machine
end

