-- ==== Sys2Proof/Machine/Flags.lean ====
section
/-! DEFINITION. The results and flags of the arithmetic instructions (42_alu.md R130 to R139), each on
exact integers and narrowed at the end, and the order of the two writes (10_state.md R41). -/

namespace Sys2Proof.Machine

/-- A flag value: exactly 0 or 1 (R130 (h)). -/
def flagByte (b : Bool) : Byte := if b then 1 else 0

/-- VF, the flag register (R22). -/
def vf : RegIdx := 15

/-- R130 (b), R121, R135: the sum modulo 256. -/
def sumByte (a b : Byte) : Byte := BitVec.ofNat 8 (a.toNat + b.toNat)

/-- R130 (b), R135: the sum exceeds 255. -/
def carry (a b : Byte) : Bool := decide (255 < a.toNat + b.toNat)

/-- R130 (c): minuend minus subtrahend, modulo 256. -/
def diffByte (minuend subtrahend : Byte) : Byte :=
  BitVec.ofInt 8 ((minuend.toNat : Int) - (subtrahend.toNat : Int))

/-- R130 (d): the minuend is STRICTLY greater than the subtrahend. -/
def greater (minuend subtrahend : Byte) : Bool := decide (subtrahend.toNat < minuend.toNat)

/-- R137: one position to the right, bit 7 becomes 0. -/
def shiftedRight (a : Byte) : Byte := BitVec.ofNat 8 (a.toNat >>> 1)

/-- R139: one position to the left, modulo 256. -/
def shiftedLeft (a : Byte) : Byte := BitVec.ofNat 8 (a.toNat <<< 1)

/-- R41, R130 (g): the result into `V[x]` first, the flag into VF last. -/
def State.setResult (s : State) (x : RegIdx) (result : Byte) (flag : Bool) : State :=
  (s.setV x result).setV vf (flagByte flag)

/-- R153: the decimal digits of a byte, hundreds, tens, units. -/
def bcdDigits (b : Byte) : List Byte :=
  [BitVec.ofNat 8 (b.toNat / 100), BitVec.ofNat 8 (b.toNat / 10 % 10), BitVec.ofNat 8 (b.toNat % 10)]

end Sys2Proof.Machine
end

