-- ==== Sys2Proof/Machine/Alu.lean ====
section
/-! DEFINITION. The ALU and register-move family (42_alu.md). Operands are read before anything is
written (R10, R130 (f)). -/

namespace Sys2Proof.Machine

/-- LOAD-REG (R131). -/
def execLdReg (x y : RegIdx) (s : State) : Host.Outcome State Fault Refusal :=
  .next (s.setV x (s.getV y))

/-- OR (R132): no flag. -/
def execOr (x y : RegIdx) (s : State) : Host.Outcome State Fault Refusal :=
  .next (s.setV x (s.getV x ||| s.getV y))

/-- AND (R133): no flag. -/
def execAnd (x y : RegIdx) (s : State) : Host.Outcome State Fault Refusal :=
  .next (s.setV x (s.getV x &&& s.getV y))

/-- XOR (R134): no flag. -/
def execXor (x y : RegIdx) (s : State) : Host.Outcome State Fault Refusal :=
  .next (s.setV x (s.getV x ^^^ s.getV y))

/-- ADD-REG (R135): VF is the carry. -/
def execAddReg (x y : RegIdx) (s : State) : Host.Outcome State Fault Refusal :=
  .next (s.setResult x (sumByte (s.getV x) (s.getV y)) (carry (s.getV x) (s.getV y)))

/-- SUB (R136): `V[x] - V[y]`, VF is 1 iff `V[x] > V[y]`. -/
def execSub (x y : RegIdx) (s : State) : Host.Outcome State Fault Refusal :=
  .next (s.setResult x (diffByte (s.getV x) (s.getV y)) (greater (s.getV x) (s.getV y)))

/-- SHIFT-RIGHT (R137): `V[x]` in place, VF is its old bit 0. -/
def execShr (x : RegIdx) (s : State) : Host.Outcome State Fault Refusal :=
  .next (s.setResult x (shiftedRight (s.getV x)) ((s.getV x).getLsbD 0))

/-- SUB-REVERSED (R138): `V[y] - V[x]`, VF is 1 iff `V[y] > V[x]`. -/
def execSubn (x y : RegIdx) (s : State) : Host.Outcome State Fault Refusal :=
  .next (s.setResult x (diffByte (s.getV y) (s.getV x)) (greater (s.getV y) (s.getV x)))

/-- SHIFT-LEFT (R139): `V[x]` in place, VF is its old bit 7. -/
def execShl (x : RegIdx) (s : State) : Host.Outcome State Fault Refusal :=
  .next (s.setResult x (shiftedLeft (s.getV x)) ((s.getV x).getLsbD 7))

end Sys2Proof.Machine
end

