-- ==== Sys2Proof/Machine/Control.lean ====
section
/-! DEFINITION. Control transfer (40_control_transfer.md). In every meaning `pc` is already the address
of the next instruction (R70, R100). -/

namespace Sys2Proof.Machine

/-- JUMP (R101). -/
def execJp (addr : Addr) (s : State) : Host.Outcome State Fault Refusal :=
  .next (s.setPc (zextAddr addr))

/-- CALL (R102): the return address is the advanced `pc`; a full stack is a fatal fault (R202). -/
def execCall (addr : Addr) (s : State) : Host.Outcome State Fault Refusal :=
  match s.push s.pc with
  | some t => .next (t.setPc (zextAddr addr))
  | none => .next (s.raise (.stackOverflow (encode (.call addr)) s.pcFetch))

/-- RETURN (R103): an empty stack is a fatal fault (R203). -/
def execRet (x : RegIdx) (s : State) : Host.Outcome State Fault Refusal :=
  match s.pop with
  | some (target, t) => .next (t.setPc target)
  | none => .next (s.raise (.stackUnderflow (encode (.ret x)) s.pcFetch))

/-- JUMP-WITH-OFFSET (R104): `addr + V[0]`, at most 0x10FE, not reduced to 12 bits. -/
def execJpV0 (addr : Addr) (s : State) : Host.Outcome State Fault Refusal :=
  .next (s.setPc (zextAddr addr + zextByte (s.getV 0)))

/-- SKIP-IF-EQUAL-IMM (R105). -/
def execSeImm (x : RegIdx) (nn : Byte) (s : State) : Host.Outcome State Fault Refusal :=
  .next (s.skipIf (s.getV x == nn))

/-- SKIP-IF-NOT-EQUAL-IMM (R106). -/
def execSneImm (x : RegIdx) (nn : Byte) (s : State) : Host.Outcome State Fault Refusal :=
  .next (s.skipIf (s.getV x != nn))

/-- SKIP-IF-EQUAL-REG (R107). -/
def execSeReg (x y : RegIdx) (s : State) : Host.Outcome State Fault Refusal :=
  .next (s.skipIf (s.getV x == s.getV y))

/-- SKIP-IF-NOT-EQUAL-REG (R108): on `pc`, not on `sp` (90_conflicts.md C7). -/
def execSneReg (x y : RegIdx) (s : State) : Host.Outcome State Fault Refusal :=
  .next (s.skipIf (s.getV x != s.getV y))

end Sys2Proof.Machine
end

