-- ==== Sys2Proof/Machine/Immediate.lean ====
section
/-! DEFINITION. Register-immediate operations and the random draw (41_register_immediate.md). -/

namespace Sys2Proof.Machine

/-- LOAD-IMM (R120). -/
def execLdImm (x : RegIdx) (nn : Byte) (s : State) : Host.Outcome State Fault Refusal :=
  .next (s.setV x nn)

/-- ADD-IMM (R121): modulo 256, no flag. -/
def execAddImm (x : RegIdx) (nn : Byte) (s : State) : Host.Outcome State Fault Refusal :=
  .next (s.setV x (sumByte (s.getV x) nn))

/-- The effect of RANDOM-AND for a drawn byte `r` (R122). -/
def State.randomAnd (s : State) (x : RegIdx) (nn r : Byte) : State := s.setV x (r &&& nn)

/-- RANDOM-AND (R122): the draw is a FREE VALUE, the next of `Config.rand8`. -/
def execRnd (x : RegIdx) (nn : Byte) (s : State) : Host.Outcome State Fault Refusal :=
  .next (s.nextDraw.randomAnd x nn (Config.rand8 s.draws))

end Sys2Proof.Machine
end

