-- ==== Sys2Proof/Machine/Index.lean ====
section
/-! DEFINITION. The address register and the memory operations (43_index_memory.md). -/

namespace Sys2Proof.Machine

/-- LOAD-INDEX (R150). -/
def execLdI (addr : Addr) (s : State) : Host.Outcome State Fault Refusal :=
  .next (s.setI (zextAddr addr))

/-- ADD-TO-INDEX (R151): modulo 65536, no flag. -/
def execAddIVx (x : RegIdx) (s : State) : Host.Outcome State Fault Refusal :=
  .next (s.setI (s.i + zextByte (s.getV x)))

/-- LOAD-FONT-ADDR (R152): `5 * V[x]` for every register value, no mask. -/
def execLdFVx (x : RegIdx) (s : State) : Host.Outcome State Fault Refusal :=
  .next (s.setI (BitVec.ofNat 16 (Config.glyphBytes * (s.getV x).toNat)))

/-- STORE-BCD (R153). -/
def execLdBVx (x : RegIdx) (s : State) : Host.Outcome State Fault Refusal :=
  .next (s.withRange (.ldBVx x) (s.dataAddress 0) 3
    (s.storeBytes (s.dataAddress 0) (bcdDigits (s.getV x))))

/-- STORE-REGISTERS (R154): `x + 1` registers, `I` unchanged. -/
def execLdMemVx (x : RegIdx) (s : State) : Host.Outcome State Fault Refusal :=
  .next (s.withRange (.ldMemVx x) (s.dataAddress 0) (x.val + 1)
    (s.storeBytes (s.dataAddress 0) (s.regsThrough x)))

/-- LOAD-REGISTERS (R155): `x + 1` registers, `I` unchanged. -/
def execLdVxMem (x : RegIdx) (s : State) : Host.Outcome State Fault Refusal :=
  .next (s.withRange (.ldVxMem x) (s.dataAddress 0) (x.val + 1)
    (s.loadRegs (s.dataAddress 0) x))

end Sys2Proof.Machine
end

