-- ==== Sys2Proof/Machine/Keypad.lean ====
section
/-! DEFINITION. The keypad and timer operations (45_keypad_timers.md). -/

namespace Sys2Proof.Machine

/-- SKIP-IF-KEY-PRESSED (R180). -/
def execSkp (x : RegIdx) (s : State) : Host.Outcome State Fault Refusal :=
  .next (s.keySkip (.skp x) x true)

/-- SKIP-IF-KEY-NOT-PRESSED (R181). The byte only names the opcode in a fault record. -/
def execSknp (x : RegIdx) (nn : Byte) (s : State) : Host.Outcome State Fault Refusal :=
  .next (s.keySkip (.sknp x nn) x false)

/-- WAIT-FOR-KEY (R182): the least pressed key, or back to this instruction. -/
def execLdVxK (x : RegIdx) (s : State) : Host.Outcome State Fault Refusal :=
  match s.leastKey with
  | some k => .next (s.setV x (BitVec.ofNat 8 k.val))
  | none => .next (s.setPc (s.pc - 2))

/-- GET-DELAY-TIMER (R183). -/
def execLdVxDt (x : RegIdx) (s : State) : Host.Outcome State Fault Refusal :=
  .next (s.setV x s.dt)

/-- SET-DELAY-TIMER (R184). -/
def execLdDtVx (x : RegIdx) (s : State) : Host.Outcome State Fault Refusal :=
  .next (s.setDt (s.getV x))

/-- SET-SOUND-TIMER (R185). -/
def execLdStVx (x : RegIdx) (s : State) : Host.Outcome State Fault Refusal :=
  .next (s.setSt (s.getV x))

end Sys2Proof.Machine
end

