-- ==== Sys2Proof/Machine/Sprite.lean ====
section
/-! DEFINITION. The display operations (44_display.md): CLEAR-SCREEN and DRAW-SPRITE, written as the
loops of R171. -/

namespace Sys2Proof.Machine

/-- CLEAR-SCREEN (R170). -/
def execCls (s : State) : Host.Outcome State Fault Refusal :=
  .next (s.setDisplay Display.blank)

/-- The body of R171's loops for a set sprite bit at pixel (`i`, `j`): the cell, wrapped in both
directions (R172), is XORed; erasing a set cell is a collision. -/
def xorPixel (cx cy i j : Nat) (acc : Display × Bool) : Display × Bool :=
  let c := Fin.ofNat 64 (cx + j)
  let r := Fin.ofNat 32 (cy + i)
  (Display.flip acc.1 c r, acc.2 || Display.cell acc.1 c r)

/-- R171: one row of 8 pixels; pixel `j` is bit `7 - j` of the row byte (R172). -/
def xorRow (cx cy i : Nat) (row : Byte) (acc : Display × Bool) : Display × Bool :=
  (List.range 8).foldl (fun acc j => if row.getLsbD (7 - j) then xorPixel cx cy i j acc else acc) acc

/-- R171: `n` rows from the bytes at `I`; the new display and whether a set cell was erased. -/
def State.xorSprite (s : State) (cx cy n : Nat) : Display × Bool :=
  (List.range n).foldl (fun acc i => xorRow cx cy i (s.load (s.dataAddress i)) acc) (s.display, false)

/-- DRAW-SPRITE (R171): the coordinates are read before VF is written; `n = 0` reads nothing. -/
def execDrw (x y : RegIdx) (n : Nibble) (s : State) : Host.Outcome State Fault Refusal :=
  let drawn := s.xorSprite (s.getV x).toNat (s.getV y).toNat n.toNat
  .next (s.withRange (.drw x y n) (s.dataAddress 0) n.toNat
    ((s.setDisplay drawn.1).setV vf (flagByte drawn.2)))

end Sys2Proof.Machine
end

