-- ==== Sys2Proof/Machine/Step.lean ====
section
/-! DEFINITION. `step` (30_encoding.md R70): fetch, advance, decode, execute. -/

namespace Sys2Proof.Machine

/-- One step (R70). A step that ends `Fatal` is a next state whose fault latch is set (R208, R211); a
machine whose latch is set has no step (R71), which is the one fault the model stops with. -/
def step (s : State) : Host.Outcome State Fault Refusal :=
  match s.fault with
  | some r => .fault (.machineFaulted r)
  | none =>
    match s.fetch with
    | .error a => .next (s.fetchFault a)
    | .ok opcode =>
      match decode opcode with
      | .ok i => exec i s.advance
      | .error _ => .next (s.advance.unknown opcode)

/-- The state with an instruction placed where `step` fetches next: at `pc` (R70). Log entry 29. -/
def State.withFetchWord (s : State) (nbits w : Nat) : State :=
  s.placeOpcode (BitVec.ofNat 16 (w % 2 ^ nbits))

end Sys2Proof.Machine
end

