-- ==== Sys2Proof/Machine/Environment.lean ====
section
/-! DEFINITION. What acts on the machine between two steps (60_exceptions.md R217 to R224): the timer
scheduler, the keypad source, the presenter; and before the first step the ROM loader
(70_reset_and_hazards.md R242). -/

namespace Sys2Proof.Machine

/-- One timer tick (R217): each timer one down, never below zero. -/
def State.tick (s : State) : State :=
  { s with dt := if s.dt = 0 then 0 else s.dt - 1, st := if s.st = 0 then 0 else s.st - 1 }

/-- The keypad source sets the 16 cells to any values (R218). -/
def State.setKeys (s : State) (keys : Vector Bool 16) : State := { s with keypad := keys }

/-- What the presenter reads: the 2048 cells in linear order, row by row (R32), and only when the dirty
flag is set (R219). -/
def State.frame (s : State) : Option (Vector Bool 2048) :=
  if s.screenUpdated then
    some (Vector.ofFn fun idx =>
      s.display.cell (Fin.ofNat 64 (idx.val % 64)) (Fin.ofNat 32 (idx.val / 64)))
  else none

/-- The presenter (R219): if the dirty flag is set it consumes the frame and clears the flag. -/
def State.present (s : State) : State := { s with screenUpdated := false }

/-- The ROM loader (R242): the image from 0x200, cut after 3584 bytes, verbatim. -/
def State.loadRom (s : State) (rom : List Byte) : State :=
  s.storeBytes Config.romStart (rom.take Config.romMax)

/-- Reset and ROM load (R240, R242, R245): the launch state. -/
def State.launch (font : Vector Byte 80) (strictUnknown : Bool) (draws : Nat) (rom : List Byte) : State :=
  (State.resetWith font strictUnknown draws).loadRom rom

/-- The environment's transitions between two steps (R224). -/
inductive EnvEvent where
  /-- A timer tick (R217). -/
  | tick
  /-- The keypad takes new values (R218). -/
  | keys (keys : Vector Bool 16)
  /-- The presenter consumes a frame (R219). -/
  | present
  deriving DecidableEq, Repr

/-- The effect of an environment transition. -/
def State.env (s : State) : EnvEvent → State
  | .tick => s.tick
  | .keys k => s.setKeys k
  | .present => s.present

end Sys2Proof.Machine
end

