-- ==== Sys2Proof/Machine/System.lean ====
section
/-! DEFINITION. The core in its environment: what a step returns to the driver (00_scope.md R11, R72,
R201), and runs in which steps, environment transitions and new resets alternate in any order
(60_exceptions.md R224, R225). -/

namespace Sys2Proof.Machine

/-- What a step returns (R11). -/
inductive StepOutput where
  /-- The transition was applied; the raw opcode consumed (R72). -/
  | ok (opcode : Word)
  /-- The report of an unknown opcode and the address it was fetched from (R201). -/
  | unknown (opcode pcFetch : Word)
  /-- A fatal fault (R208). -/
  | fatal (record : FaultRecord)
  deriving DecidableEq, Repr

/-- The output of the step from a state; none where the machine has no step (R71). A function of the
state the step starts in: R20 gives the machine no field that holds it. Log entry 7. -/
def stepOutput (s : State) : Option StepOutput :=
  match step s with
  | .next t =>
    match t.fault with
    | some r => some (.fatal r)
    | none =>
      match s.fetch with
      | .error _ => none
      | .ok opcode =>
        match decode opcode with
        | .ok _ => some (.ok opcode)
        | .error _ => some (.unknown opcode s.pc)
  | .fault _ => none
  | .refused _ => none

/-- What the caller of the core and its environment may do next. -/
inductive Action where
  /-- The driver calls `step` (R225). -/
  | step
  /-- The environment acts (R224). -/
  | env (e : EnvEvent)
  /-- The driver resets the machine, chooses the strictness and loads a ROM (R225, R240, R242): the only
  way out of a fatal fault (R208). -/
  | launch (strictUnknown : Bool) (rom : List Byte)
  deriving DecidableEq, Repr

/-- The action is a call of `step`. -/
def Action.isStep : Action → Bool
  | .step => true
  | .env _ => false
  | .launch _ _ => false

/-- The action is a new reset with the load of a ROM. -/
def Action.isLaunch : Action → Bool
  | .step => false
  | .env _ => false
  | .launch _ _ => true

/-- How often a schedule calls `step` (R260): environment transitions do not count, and a step that ends
`Unknown` counts like any other. -/
def stepCount (schedule : List Action) : Nat := schedule.countP Action.isStep

/-- The effect of an action. -/
def State.act (s : State) : Action → Host.Outcome State Fault Refusal
  | .step => step s
  | .env e => .next (s.env e)
  | .launch strict rom => .next (State.launch s.font strict s.draws rom)

/-- A run under a schedule of actions (R6: any number, any order). It ends early where the machine has
no step. -/
def State.runActions (s : State) : List Action → Host.Outcome State Fault Refusal
  | [] => .next s
  | a :: rest =>
    match s.act a with
    | .next t => t.runActions rest
    | .fault f => .fault f
    | .refused r => .refused r

end Sys2Proof.Machine
end

