-- ==== Sys2Proof/Safety.lean ====
section
/-! DEFINITION. The terms the claims use: the components of a state and frames over them, a safe run,
the invariant of 10_state.md R40, reachable states, and the observation points of
70_reset_and_hazards.md R260. -/

namespace Sys2Proof.Machine

/-- The single pieces of a state a frame speaks about: every register, every byte of memory, every
display cell on its own. -/
inductive Component where
  | reg (k : RegIdx)
  | index
  | pc
  | stackEntry (k : Fin 16)
  | sp
  | delayTimer
  | soundTimer
  | key (k : Fin 16)
  | cell (c : Fin 64) (r : Fin 32)
  | dirty
  | byte (a : Nat)
  | latch
  | font
  | strict
  | draws
  deriving DecidableEq, Repr

/-- A component holds the same value in two states. Memory is compared through the read of one byte. -/
def Agrees (s t : State) : Component → Prop
  | .reg k => t.v[k] = s.v[k]
  | .index => t.i = s.i
  | .pc => t.pc = s.pc
  | .stackEntry k => t.stack[k] = s.stack[k]
  | .sp => t.sp = s.sp
  | .delayTimer => t.dt = s.dt
  | .soundTimer => t.st = s.st
  | .key k => t.keypad[k] = s.keypad[k]
  | .cell c r => t.display.cell c r = s.display.cell c r
  | .dirty => t.screenUpdated = s.screenUpdated
  | .byte a => t.load a = s.load a
  | .latch => t.fault = s.fault
  | .font => t.font = s.font
  | .strict => t.strictUnknown = s.strictUnknown
  | .draws => t.draws = s.draws

/-- THE FRAME: from `s` to `t` nothing has changed but, at most, the components listed in `written`. -/
def Frame (written : List Component) (s t : State) : Prop :=
  ∀ c, c ∉ written → Agrees s t c

/-- The frame of an instruction that stores `n` bytes from `base` and writes nothing else. -/
def FrameStore (base n : Nat) (s t : State) : Prop :=
  ∀ c, (∀ a, base ≤ a → a < base + n → c ≠ .byte a) → Agrees s t c

/-- The frame of an instruction that writes VF, the dirty flag and display cells, and nothing else. -/
def FrameDraw (s t : State) : Prop :=
  ∀ c, c ≠ .reg vf → c ≠ .dirty → (∀ col row, c ≠ .cell col row) → Agrees s t c

/-- A machine that may be stepped (R71). -/
abbrev Running (s : State) : Prop := s.fault = none

/-- A safe run: it leads to a state, and no fatal fault is latched there (R208: a faulted state is never
a final state). -/
def SafeRun (s : State) (actions : List Action) : Prop :=
  ∃ t, s.runActions actions = .next t ∧ Running t

/-- R40, for what the types do not already say: the bound on `pc`, the bound on every live stack entry,
and memory in its canonical form within the 4096 bytes. -/
structure Inv (s : State) : Prop where
  pc_le : s.pc.toNat ≤ 0x10FE
  live_le : ∀ k : Fin 16, k.val < s.sp.val → s.stack[k].toNat ≤ 0x1000
  mem_wf : Memory.wf s.font s.mem

/-- The states a machine can be in (R224, R240): launched with any font, strictness and ROM, then any
steps and environment transitions in any order. -/
inductive Reachable : State → Prop where
  | launch (font : Vector Byte 80) (strict : Bool) (draws : Nat) (rom : List Byte) :
      Reachable (State.launch font strict draws rom)
  | step (s t : State) : Reachable s → Machine.step s = .next t → Reachable t
  | env (s : State) (e : EnvEvent) : Reachable s → Reachable (s.env e)

/-- A launch state (R245, R260): after a reset and the load of a ROM. -/
def Launched (s : State) : Prop :=
  ∃ font strict draws rom, s = State.launch font strict draws rom

/-- A run in the sense of R260: from a launch state the driver's steps and the environment's transitions
happen as scheduled (R224, R225), without a new reset, and none of the steps ends `Fatal`. The state after
every part of the schedule, the whole included, has no latched fault. -/
structure RunFrom (start : State) (schedule : List Action) (t : State) : Prop where
  launched : Launched start
  noReset : ∀ a ∈ schedule, a.isLaunch = false
  runs : start.runActions schedule = .next t
  noneFatal : ∀ part, part <+: schedule → ∀ u, start.runActions part = .next u → Running u

/-- Observation point 1 of R260, "after N steps": the state after exactly `n` calls of `step` from the
launch state, whatever the environment did around them, none of which ended `Fatal`. -/
structure AfterSteps (n : Nat) (start : State) (schedule : List Action) (t : State) : Prop
    extends RunFrom start schedule t where
  steps : stepCount schedule = n

/-- What observation point 2 of R260 asks of a state: the instruction at `pc` is a JUMP to `pc` itself. A
faulted machine is not at rest. -/
def AtRest (s : State) : Prop :=
  Running s ∧ ∃ addr, s.fetch = .ok (encode (.jp addr)) ∧ zextAddr addr = s.pc

/-- Observation point 2 of R260, "at rest": the FIRST state of a run that is at rest. The schedule is the
run up to that state: no state before it is at rest. -/
structure EndsAtRest (start : State) (schedule : List Action) (t : State) : Prop
    extends RunFrom start schedule t where
  rest : AtRest t
  first : ∀ part, part <+: schedule → part ≠ schedule → ∀ u, start.runActions part = .next u → ¬ AtRest u

/-- Two states that differ at most in the stale stack entries, those at or above `sp` (R26). -/
def SameButStale (s t : State) : Prop :=
  { t with stack := s.stack } = s ∧ ∀ k : Fin 16, k.val < s.sp.val → t.stack[k] = s.stack[k]

/-- R22: the complete list of instructions that write VF as a flag. -/
def writesFlag : Instr → Bool
  | .addReg _ _ | .sub _ _ | .subn _ _ | .shr _ _ | .shl _ _ | .drw _ _ _ => true
  | .cls _ | .ret _ | .jp _ | .call _ | .seImm _ _ | .sneImm _ _ | .seReg _ _ _ | .ldImm _ _
  | .addImm _ _ | .ldReg _ _ | .orReg _ _ | .andReg _ _ | .xorReg _ _ | .sneReg _ _ _ | .ldI _
  | .jpV0 _ | .rnd _ _ | .skp _ | .sknp _ _ | .ldVxDt _ | .ldVxK _ | .ldDtVx _ | .ldStVx _
  | .addIVx _ | .ldFVx _ | .ldBVx _ | .ldMemVx _ | .ldVxMem _ => false

/-- The registers an instruction names as its destination: `x` in most, `V[0]`..`V[x]` in
LOAD-REGISTERS. -/
def isDestination (k : RegIdx) : Instr → Bool
  | .ldImm x _ | .addImm x _ | .ldReg x _ | .orReg x _ | .andReg x _ | .xorReg x _ | .addReg x _
  | .sub x _ | .shr x _ | .subn x _ | .shl x _ | .rnd x _ | .ldVxDt x | .ldVxK x => k == x
  | .ldVxMem x => decide (k ≤ x)
  | .cls _ | .ret _ | .jp _ | .call _ | .seImm _ _ | .sneImm _ _ | .seReg _ _ _ | .sneReg _ _ _
  | .ldI _ | .jpV0 _ | .drw _ _ _ | .skp _ | .sknp _ _ | .ldDtVx _ | .ldStVx _ | .addIVx _
  | .ldFVx _ | .ldBVx _ | .ldMemVx _ => false

/-- The sprite bit that lands on display cell (`c`, `r`) when `n` rows are drawn at (`cx`, `cy`) from the
bytes at `I` (R172): set when some pixel (`i`, `j`) wraps to that cell and bit `7 - j` of row `i` is 1. -/
def spriteBit (s : State) (cx cy n : Nat) (c : Fin 64) (r : Fin 32) : Bool :=
  (List.range n).any fun i => (List.range 8).any fun j =>
    decide ((cx + j) % 64 = c.val) && decide ((cy + i) % 32 = r.val)
      && (s.load (s.i.toNat + i)).getLsbD (7 - j)

end Sys2Proof.Machine
end

