-- ==== Sys2Proof/Certificates/Slice0/Obligations.lean ====
section
/-! DEFINITION. The statements for the provers, each from the numbered rules of spec/. In a statement
about `exec`, `pc` is already the address of the next instruction (30_encoding.md R70): `s.pc - 2` is
`pc_fetch`. -/

open Sys2Proof Sys2Proof.Machine

/-! ### Encoding and decoding -/

/-- Words written out from the opcode table and 95_test_vectors.md 2.1, one or more for each family. -/
def Obligations.SpecWordsDecodeToTheirInstructions : Prop :=
  decode 0x00E0 = .ok (.cls 0) ∧ decode 0x0AE0 = .ok (.cls 0xA) ∧ decode 0x0FEE = .ok (.ret 0xF)
    ∧ decode 0x1ABC = .ok (.jp 0xABC) ∧ decode 0x512F = .ok (.seReg 1 2 0xF)
    ∧ decode 0x6A37 = .ok (.ldImm 0xA 0x37) ∧ decode 0xC30F = .ok (.rnd 3 0x0F)
    ∧ decode 0x8125 = .ok (.sub 1 2) ∧ decode 0x812E = .ok (.shl 1 2)
    ∧ decode 0xA22A = .ok (.ldI 0x22A) ∧ decode 0xF155 = .ok (.ldMemVx 1)
    ∧ decode 0xD015 = .ok (.drw 0 1 5) ∧ decode 0xE19E = .ok (.skp 1)
    ∧ decode 0xE19F = .ok (.sknp 1 0x9F) ∧ decode 0xF10A = .ok (.ldVxK 1)
    ∧ decode 0x0123 = .error (.unknownOpcode 0x0123) ∧ decode 0x8128 = .error (.unknownOpcode 0x8128)
    ∧ decode 0xF130 = .error (.unknownOpcode 0xF130)

/-- Decode and encode agree on every well-formed instruction, with every operand at every value. -/
def Obligations.DecodeOfEncodeIsTheInstruction : Prop :=
  ∀ i : Instr, i.wf = true → decode (encode i) = .ok i

/-- The other direction: an opcode that decodes is the encoding of what it decodes to, so the decoder
drops no bit, and it never answers an ill-formed instruction. -/
def Obligations.EncodeOfDecodeIsTheWord : Prop :=
  ∀ (w : Word) (i : Instr), decode w = .ok i → i.wf = true ∧ encode i = w

/-- Which opcodes are unknown, and that the decoder names the opcode it rejects: the set R85, which the
spec itself derives from R78 to R83; the 0x0 class rests on its decision D19, the ALU numbers on its general
knowledge G4 (log entries 22, 33). -/
def Obligations.UnknownOpcodesAreExactlyTheThreeClasses : Prop :=
  ∀ w : Word, decode w = .error (.unknownOpcode w) ↔
    (upperNibble w = 0x0 ∧ fieldByte w ∉ [0xE0#8, 0xEE#8])
    ∨ (upperNibble w = 0x8 ∧ fieldN w ∈ [0x8#4, 0x9#4, 0xA#4, 0xB#4, 0xC#4, 0xD#4, 0xF#4])
    ∨ (upperNibble w = 0xF
        ∧ fieldByte w ∉ [0x07#8, 0x0A#8, 0x15#8, 0x18#8, 0x1E#8, 0x29#8, 0x33#8, 0x55#8, 0x65#8])

/-- R77: the identity of the operation depends on bits 15:12 and 7:0 only; the field `x` never takes
part. That bits no decode rule names are ignored is the spec's own decision D20 (log entry 12). -/
def Obligations.OperationIdentityIgnoresFieldX : Prop :=
  ∀ w w' : Word, upperNibble w = upperNibble w' → fieldByte w = fieldByte w' →
    (decode w).toOption.map Instr.operation = (decode w').toOption.map Instr.operation

/-- R86, the spec's own decision D20 (log entry 12): ignored bits change no effect. Where the instruction faults, the record still
carries the raw opcode, so RETURN and SKIP-IF-KEY-NOT-PRESSED are compared where they do not fault. -/
def Obligations.IgnoredBitsChangeNoEffect : Prop :=
  ∀ (s : State) (x x' y y' : RegIdx) (n n' : Nibble) (nn nn' : Byte),
    exec (.cls x) s = exec (.cls x') s
    ∧ exec (.seReg x y n) s = exec (.seReg x y n') s
    ∧ exec (.sneReg x y n) s = exec (.sneReg x y n') s
    ∧ exec (.shr x y) s = exec (.shr x y') s
    ∧ exec (.shl x y) s = exec (.shl x y') s
    ∧ (s.sp ≠ 0 → exec (.ret x) s = exec (.ret x') s)
    ∧ (s.v[x].toNat ≤ 15 → exec (.sknp x nn) s = exec (.sknp x nn') s)

/-! ### The step -/

/-- R70: fetch, advance, decode, execute. The two bytes at `pc`, big-endian, even or odd `pc`. -/
def Obligations.StepRunsTheDecodedInstruction : Prop :=
  ∀ (s : State) (i : Instr), s.fault = none → s.pc.toNat ≤ 0xFFE →
    decode (s.load s.pc.toNat ++ s.load (s.pc.toNat + 1)) = .ok i →
    step s = exec i { s with pc := s.pc + 2 }

/-- A fetch past the end is fatal and changes nothing, not even `pc` (R58, R204 (a); the spec's own
decisions D2, D23; log entries 24, 27). -/
def Obligations.FetchPastTheEndIsFatal : Prop :=
  ∀ s : State, s.fault = none → 0xFFE < s.pc.toNat →
    step s = .next { s with
      fault := some (.memoryOutOfRange (max s.pc.toNat 0x1000) none s.pc) }

/-- R201: the default, non-strict behaviour of an unknown opcode; R209: strict mode. The `pc` reported
and left, and the two modes, are the spec's own decisions D21, D22 (log entries 2, 23). -/
def Obligations.UnknownOpcodeIsReportedOrFatal : Prop :=
  ∀ (s : State) (e : DecodeError), s.fault = none → s.pc.toNat ≤ 0xFFE →
    let opcode := s.load s.pc.toNat ++ s.load (s.pc.toNat + 1)
    decode opcode = .error e →
    (s.strictUnknown = false →
      step s = .next { s with pc := s.pc + 2 } ∧ stepOutput s = some (.unknown opcode s.pc))
    ∧ (s.strictUnknown = true →
      step s = .next { s with pc := s.pc + 2, fault := some (.unknownOpcode opcode s.pc) }
      ∧ stepOutput s = some (.fatal (.unknownOpcode opcode s.pc)))

/-- R71: a faulted machine has no step; a machine without a latched fault always has one: no
instruction, no data and no environment makes the model refuse or stop. The latch is the spec's own
(decision D23; log entry 5). -/
def Obligations.MachineStepsExactlyWhenNotFaulted : Prop :=
  ∀ s : State,
    (∀ r, s.fault = some r → step s = .fault (.machineFaulted r) ∧ stepOutput s = none)
    ∧ (s.fault = none → ∃ t, step s = .next t)

/-- R72, R11: what a step that runs an instruction returns: the opcode it fetched, or its fatal fault. -/
def Obligations.StepReturnsTheOpcodeOrItsFault : Prop :=
  ∀ (s t : State) (i : Instr), s.fault = none → s.pc.toNat ≤ 0xFFE →
    let opcode := s.load s.pc.toNat ++ s.load (s.pc.toNat + 1)
    decode opcode = .ok i → step s = .next t →
    (t.fault = none → stepOutput s = some (.ok opcode))
    ∧ (∀ r, t.fault = some r → stepOutput s = some (.fatal r))

/-- An instruction placed where the step fetches runs next: a store is seen by the next fetch (R62), in
the byte order of the fetch (R56). -/
def Obligations.PlacedInstructionRunsNext : Prop :=
  ∀ (s : State) (i : Instr), s.fault = none → s.pc.toNat ≤ 0xFFE → Memory.wf s.font s.mem →
    i.wf = true →
    step (s.withFetchWord 16 (encode i).toNat)
      = exec i { s.withFetchWord 16 (encode i).toNat with pc := s.pc + 2 }

/-! ### Control transfer (40_control_transfer.md) -/

/-- R101. -/
def Obligations.JumpSetsPcToTheAddress : Prop :=
  ∀ (addr : Addr) (s : State),
    decode (0x1#4 ++ addr) = .ok (.jp addr)
    ∧ ∃ t, exec (.jp addr) s = .next t ∧ t.pc = addr.setWidth 16 ∧ Frame [.pc] s t

/-- R104: the sum is exact. That the offset is `V[0]` and that the sum is not reduced is the spec's own
decision D13 (general knowledge G3; log entry 16). -/
def Obligations.JumpWithOffsetAddsV0 : Prop :=
  ∀ (addr : Addr) (s : State),
    decode (0xB#4 ++ addr) = .ok (.jpV0 addr)
    ∧ ∃ t, exec (.jpV0 addr) s = .next t ∧ t.pc.toNat = addr.toNat + s.v[0].toNat ∧ Frame [.pc] s t

/-- R102: with `k` entries in use, 0..15, the return address goes to entry `k`; with 16 the fault of R202
and nothing else. -/
def Obligations.CallPushesAndJumpsOrOverflows : Prop :=
  ∀ (addr : Addr) (s : State),
    decode (0x2#4 ++ addr) = .ok (.call addr)
    ∧ (∀ k : Fin 16, s.sp.val = k.val →
        ∃ t, exec (.call addr) s = .next t ∧ t.stack[k] = s.pc ∧ t.sp.val = k.val + 1
          ∧ t.pc = addr.setWidth 16 ∧ Frame [.pc, .sp, .stackEntry k] s t)
    ∧ (s.sp = 16 →
        exec (.call addr) s
          = .next { s with fault := some (.stackOverflow (0x2#4 ++ addr) (s.pc - 2)) })

/-- R103: with `k + 1` entries in use the entry `k` goes to `pc`; with none the fault of R203 and nothing
else. -/
def Obligations.ReturnPopsIntoPcOrUnderflows : Prop :=
  ∀ (x : RegIdx) (s : State),
    decode (0x0#4 ++ regBits x ++ 0xEE#8) = .ok (.ret x)
    ∧ (∀ k : Fin 16, s.sp.val = k.val + 1 →
        ∃ t, exec (.ret x) s = .next t ∧ t.pc = s.stack[k] ∧ t.sp.val = k.val
          ∧ Frame [.pc, .sp] s t)
    ∧ (s.sp = 0 →
        exec (.ret x) s
          = .next { s with fault := some (.stackUnderflow (0x0#4 ++ regBits x ++ 0xEE#8) (s.pc - 2)) })

/-- The property of R100 and R103: CALL, then RETURN from any address, restores `pc` to the instruction
after the CALL, and the stack depth. -/
def Obligations.CallThenReturnRestoresPc : Prop :=
  ∀ (addr : Addr) (x : RegIdx) (p : Word) (s t : State), s.sp.val < 16 →
    exec (.call addr) s = .next t →
    ∃ u, exec (.ret x) { t with pc := p } = .next u ∧ u.pc = s.pc ∧ u.sp = s.sp

/-- R105, R106. -/
def Obligations.ImmediateSkipsCompareTheByte : Prop :=
  ∀ (x : RegIdx) (nn : Byte) (s : State),
    (decode (0x3#4 ++ regBits x ++ nn) = .ok (.seImm x nn)
      ∧ ∃ t, exec (.seImm x nn) s = .next t
        ∧ t.pc = (if s.v[x] = nn then s.pc + 2 else s.pc) ∧ Frame [.pc] s t)
    ∧ (decode (0x4#4 ++ regBits x ++ nn) = .ok (.sneImm x nn)
      ∧ ∃ t, exec (.sneImm x nn) s = .next t
        ∧ t.pc = (if s.v[x] ≠ nn then s.pc + 2 else s.pc) ∧ Frame [.pc] s t)

/-- R107, R108: for every value of the ignored low nibble. -/
def Obligations.RegisterSkipsCompareTheRegisters : Prop :=
  ∀ (x y : RegIdx) (n : Nibble) (s : State),
    (decode (0x5#4 ++ regBits x ++ regBits y ++ n) = .ok (.seReg x y n)
      ∧ ∃ t, exec (.seReg x y n) s = .next t
        ∧ t.pc = (if s.v[x] = s.v[y] then s.pc + 2 else s.pc) ∧ Frame [.pc] s t)
    ∧ (decode (0x9#4 ++ regBits x ++ regBits y ++ n) = .ok (.sneReg x y n)
      ∧ ∃ t, exec (.sneReg x y n) s = .next t
        ∧ t.pc = (if s.v[x] ≠ s.v[y] then s.pc + 2 else s.pc) ∧ Frame [.pc] s t)

/-! ### Register-immediate operations and the draw (41_register_immediate.md) -/

/-- R120: VF changes only when it is the destination. -/
def Obligations.LoadImmediateWritesTheByte : Prop :=
  ∀ (x : RegIdx) (nn : Byte) (s : State),
    decode (0x6#4 ++ regBits x ++ nn) = .ok (.ldImm x nn)
    ∧ ∃ t, exec (.ldImm x nn) s = .next t ∧ t.v[x] = nn ∧ Frame [.reg x] s t

/-- R121: modulo 256; that it writes no flag is the spec's own decision D11 (log entry 15). -/
def Obligations.AddImmediateAddsWithoutFlag : Prop :=
  ∀ (x : RegIdx) (nn : Byte) (s : State),
    decode (0x7#4 ++ regBits x ++ nn) = .ok (.addImm x nn)
    ∧ ∃ t, exec (.addImm x nn) s = .next t
      ∧ t.v[x].toNat = (s.v[x].toNat + nn.toNat) % 256 ∧ Frame [.reg x] s t

/-- R122: the drawn byte AND the immediate. That the byte is free is the spec's own decision D24; that the
draws are numbered by a counter is the model's choice (log entry 3); `Config.rand8` has no body, so this holds for every byte drawn. -/
def Obligations.RandomAndMasksTheDraw : Prop :=
  ∀ (x : RegIdx) (nn : Byte) (s : State),
    decode (0xC#4 ++ regBits x ++ nn) = .ok (.rnd x nn)
    ∧ ∃ t, exec (.rnd x nn) s = .next t ∧ t.v[x] = Config.rand8 s.draws &&& nn
      ∧ t.draws = s.draws + 1 ∧ (∀ b, nn.getLsbD b = false → t.v[x].getLsbD b = false)
      ∧ Frame [.reg x, .draws] s t

/-! ### ALU (42_alu.md) -/

/-- R131 to R134: moves and bitwise operations, no flag. -/
def Obligations.MovesAndLogicWriteOnlyTheirDestination : Prop :=
  ∀ (x y : RegIdx) (s : State),
    (decode (0x8#4 ++ regBits x ++ regBits y ++ 0x0#4) = .ok (.ldReg x y)
      ∧ ∃ t, exec (.ldReg x y) s = .next t ∧ t.v[x] = s.v[y] ∧ Frame [.reg x] s t)
    ∧ (decode (0x8#4 ++ regBits x ++ regBits y ++ 0x1#4) = .ok (.orReg x y)
      ∧ ∃ t, exec (.orReg x y) s = .next t ∧ t.v[x] = s.v[x] ||| s.v[y] ∧ Frame [.reg x] s t)
    ∧ (decode (0x8#4 ++ regBits x ++ regBits y ++ 0x2#4) = .ok (.andReg x y)
      ∧ ∃ t, exec (.andReg x y) s = .next t ∧ t.v[x] = s.v[x] &&& s.v[y] ∧ Frame [.reg x] s t)
    ∧ (decode (0x8#4 ++ regBits x ++ regBits y ++ 0x3#4) = .ok (.xorReg x y)
      ∧ ∃ t, exec (.xorReg x y) s = .next t ∧ t.v[x] = s.v[x] ^^^ s.v[y] ∧ Frame [.reg x] s t)

/-- R135: the carry is "written last", so it is what VF ends with also when VF is the destination. -/
def Obligations.AddRegisterSetsSumAndCarry : Prop :=
  ∀ (x y : RegIdx) (s : State),
    decode (0x8#4 ++ regBits x ++ regBits y ++ 0x4#4) = .ok (.addReg x y)
    ∧ ∃ t, exec (.addReg x y) s = .next t
      ∧ t.v[vf] = (if s.v[x].toNat + s.v[y].toNat > 255 then 1 else 0)
      ∧ (x ≠ vf → t.v[x].toNat = (s.v[x].toNat + s.v[y].toNat) % 256)
      ∧ Frame [.reg x, .reg vf] s t

/-- R136: minuend `V[x]`, strictly greater. -/
def Obligations.SubtractSetsDifferenceAndStrictFlag : Prop :=
  ∀ (x y : RegIdx) (s : State),
    decode (0x8#4 ++ regBits x ++ regBits y ++ 0x5#4) = .ok (.sub x y)
    ∧ ∃ t, exec (.sub x y) s = .next t
      ∧ t.v[vf] = (if s.v[x].toNat > s.v[y].toNat then 1 else 0)
      ∧ (x ≠ vf → t.v[x].toNat = (s.v[x].toNat + 256 - s.v[y].toNat) % 256)
      ∧ Frame [.reg x, .reg vf] s t

/-- R138: minuend `V[y]`, strictly greater. -/
def Obligations.SubtractReversedSetsDifferenceAndStrictFlag : Prop :=
  ∀ (x y : RegIdx) (s : State),
    decode (0x8#4 ++ regBits x ++ regBits y ++ 0x7#4) = .ok (.subn x y)
    ∧ ∃ t, exec (.subn x y) s = .next t
      ∧ t.v[vf] = (if s.v[y].toNat > s.v[x].toNat then 1 else 0)
      ∧ (x ≠ vf → t.v[x].toNat = (s.v[y].toNat + 256 - s.v[x].toNat) % 256)
      ∧ Frame [.reg x, .reg vf] s t

/-- R137, R139: one position, `V[x]` in place, for every value of the ignored `y`: the source of the shift
is the spec's own decision D10 (log entry 14). -/
def Obligations.ShiftsMoveOneBitIntoVf : Prop :=
  ∀ (x y : RegIdx) (s : State),
    (decode (0x8#4 ++ regBits x ++ regBits y ++ 0x6#4) = .ok (.shr x y)
      ∧ ∃ t, exec (.shr x y) s = .next t
        ∧ t.v[vf].toNat = s.v[x].toNat % 2
        ∧ (x ≠ vf → t.v[x].toNat = s.v[x].toNat / 2)
        ∧ Frame [.reg x, .reg vf] s t)
    ∧ (decode (0x8#4 ++ regBits x ++ regBits y ++ 0xE#4) = .ok (.shl x y)
      ∧ ∃ t, exec (.shl x y) s = .next t
        ∧ t.v[vf].toNat = s.v[x].toNat / 128
        ∧ (x ≠ vf → t.v[x].toNat = s.v[x].toNat * 2 % 256)
        ∧ Frame [.reg x, .reg vf] s t)

/-! ### The address register and memory (43_index_memory.md) -/

/-- R150. -/
def Obligations.LoadIndexWritesTheAddress : Prop :=
  ∀ (addr : Addr) (s : State),
    decode (0xA#4 ++ addr) = .ok (.ldI addr)
    ∧ ∃ t, exec (.ldI addr) s = .next t ∧ t.i = addr.setWidth 16 ∧ Frame [.index] s t

/-- R151: modulo 65536, no flag; R152: `5 * V[x]` for every register value. The wrap, the missing flag and
the missing mask are the spec's own decisions D12, D11, D17 (log entries 15, 20). -/
def Obligations.IndexSumAndGlyphAddressWriteOnlyI : Prop :=
  ∀ (x : RegIdx) (s : State),
    (decode (0xF#4 ++ regBits x ++ 0x1E#8) = .ok (.addIVx x)
      ∧ ∃ t, exec (.addIVx x) s = .next t
        ∧ t.i.toNat = (s.i.toNat + s.v[x].toNat) % 65536 ∧ Frame [.index] s t)
    ∧ (decode (0xF#4 ++ regBits x ++ 0x29#8) = .ok (.ldFVx x)
      ∧ ∃ t, exec (.ldFVx x) s = .next t ∧ t.i.toNat = 5 * s.v[x].toNat ∧ Frame [.index] s t)

/-- R153: three digits at ascending addresses, or a fault and nothing else. -/
def Obligations.StoreBcdWritesThreeDigitsOrFaults : Prop :=
  ∀ (x : RegIdx) (s : State),
    decode (0xF#4 ++ regBits x ++ 0x33#8) = .ok (.ldBVx x)
    ∧ (s.i.toNat + 2 ≤ 0xFFF → Memory.wf s.font s.mem →
        ∃ t, exec (.ldBVx x) s = .next t
          ∧ (t.load s.i.toNat).toNat = s.v[x].toNat / 100
          ∧ (t.load (s.i.toNat + 1)).toNat = s.v[x].toNat / 10 % 10
          ∧ (t.load (s.i.toNat + 2)).toNat = s.v[x].toNat % 10
          ∧ FrameStore s.i.toNat 3 s t)
    ∧ (s.i.toNat + 2 > 0xFFF →
        exec (.ldBVx x) s = .next { s with
          fault := some (.memoryOutOfRange (max s.i.toNat 0x1000)
            (some (0xF#4 ++ regBits x ++ 0x33#8)) (s.pc - 2)) })

/-- R154: `V[0]`..`V[x]` inclusive, or a fault and nothing else. That `I` is unchanged is the spec's own
decision D14 (log entry 17). -/
def Obligations.StoreRegistersCopiesInclusiveOrFaults : Prop :=
  ∀ (x : RegIdx) (s : State),
    decode (0xF#4 ++ regBits x ++ 0x55#8) = .ok (.ldMemVx x)
    ∧ (s.i.toNat + x.val ≤ 0xFFF → Memory.wf s.font s.mem →
        ∃ t, exec (.ldMemVx x) s = .next t
          ∧ (∀ k : RegIdx, k ≤ x → t.load (s.i.toNat + k.val) = s.v[k])
          ∧ FrameStore s.i.toNat (x.val + 1) s t)
    ∧ (s.i.toNat + x.val > 0xFFF →
        exec (.ldMemVx x) s = .next { s with
          fault := some (.memoryOutOfRange (max s.i.toNat 0x1000)
            (some (0xF#4 ++ regBits x ++ 0x55#8)) (s.pc - 2)) })

/-- R155: `V[0]`..`V[x]` inclusive, no other register, or a fault and nothing else. That `I` is unchanged
is the spec's own decision D14 (log entry 17). -/
def Obligations.LoadRegistersCopiesInclusiveOrFaults : Prop :=
  ∀ (x : RegIdx) (s : State),
    decode (0xF#4 ++ regBits x ++ 0x65#8) = .ok (.ldVxMem x)
    ∧ (s.i.toNat + x.val ≤ 0xFFF →
        ∃ t, exec (.ldVxMem x) s = .next t
          ∧ (∀ k : RegIdx, k ≤ x → t.v[k] = s.load (s.i.toNat + k.val))
          ∧ Frame (((List.finRange 16).filter (· ≤ x)).map Component.reg) s t)
    ∧ (s.i.toNat + x.val > 0xFFF →
        exec (.ldVxMem x) s = .next { s with
          fault := some (.memoryOutOfRange (max s.i.toNat 0x1000)
            (some (0xF#4 ++ regBits x ++ 0x65#8)) (s.pc - 2)) })

/-- STORE-REGISTERS then LOAD-REGISTERS of the same block brings every register back, whatever the
registers held in between. -/
def Obligations.StoredRegistersLoadBack : Prop :=
  ∀ (x : RegIdx) (s t : State) (v : Vector Byte 16), Memory.wf s.font s.mem →
    s.i.toNat + x.val ≤ 0xFFF → exec (.ldMemVx x) s = .next t →
    ∃ u, exec (.ldVxMem x) { t with v := v } = .next u
      ∧ ∀ k : RegIdx, u.v[k] = if k ≤ x then s.v[k] else v[k]

/-! ### The display (44_display.md) -/

/-- R170; that the dirty flag is set on a blank display too is the spec's own decision D18 (log entry 21). -/
def Obligations.ClearScreenBlanksEveryCell : Prop :=
  ∀ (x : RegIdx) (s : State),
    decode (0x0#4 ++ regBits x ++ 0xE0#8) = .ok (.cls x)
    ∧ ∃ t, exec (.cls x) s = .next t ∧ (∀ c r, t.display.cell c r = false) ∧ t.screenUpdated = true
      ∧ t.v = s.v ∧ FrameDraw s t

/-- R171, R172: the loops XOR each cell with the sprite bit that wraps onto it, VF is the collision, and
the dirty flag is set; or a fault and nothing else. The bit order of a row and the unconditional dirty flag
are the spec's own decisions D6, D18 (log entries 25, 21). -/
def Obligations.DrawSpriteXorsTheWrappedSpriteOrFaults : Prop :=
  ∀ (x y : RegIdx) (n : Nibble) (s : State),
    decode (0xD#4 ++ regBits x ++ regBits y ++ n) = .ok (.drw x y n)
    ∧ (n.toNat = 0 ∨ s.i.toNat + n.toNat - 1 ≤ 0xFFF →
        let sprite := spriteBit s s.v[x].toNat s.v[y].toNat n.toNat
        ∃ t, exec (.drw x y n) s = .next t
          ∧ (∀ c r, t.display.cell c r = (s.display.cell c r ^^ sprite c r))
          ∧ (t.v[vf] = 0 ∨ t.v[vf] = 1)
          ∧ (t.v[vf] = 1 ↔ ∃ c r, s.display.cell c r = true ∧ sprite c r = true)
          ∧ t.screenUpdated = true
          ∧ FrameDraw s t)
    ∧ (0 < n.toNat → s.i.toNat + n.toNat - 1 > 0xFFF →
        exec (.drw x y n) s = .next { s with
          fault := some (.memoryOutOfRange (max s.i.toNat 0x1000)
            (some (0xD#4 ++ regBits x ++ regBits y ++ n)) (s.pc - 2)) })

/-- The property quoted in R171: the same sprite drawn twice erases itself, and on a blank background
VF is 0 after the first draw and, if the sprite has a set bit, 1 after the second. `V[x]`, `V[y]` are not
VF, which the first draw writes. -/
def Obligations.DrawingTwiceErases : Prop :=
  ∀ (x y : RegIdx) (n : Nibble) (p : Word) (s t : State), x ≠ vf → y ≠ vf →
    (n.toNat = 0 ∨ s.i.toNat + n.toNat - 1 ≤ 0xFFF) →
    exec (.drw x y n) s = .next t →
    ∃ u, exec (.drw x y n) { t with pc := p } = .next u ∧ u.display = s.display
      ∧ ((∀ c r, s.display.cell c r = false) →
          (∃ c r, spriteBit s s.v[x].toNat s.v[y].toNat n.toNat c r = true) →
          t.v[vf] = 0 ∧ u.v[vf] = 1)

/-! ### Keypad and timers (45_keypad_timers.md) -/

/-- R180, R181: the key named by `V[x]`, or the fault of R205 and nothing else; that fault is the spec's
own decision D16 (log entry 19). -/
def Obligations.KeySkipsTestTheNamedKeyOrFault : Prop :=
  ∀ (x : RegIdx) (nn : Byte) (s : State),
    decode (0xE#4 ++ regBits x ++ 0x9E#8) = .ok (.skp x)
    ∧ (nn ≠ 0x9E → decode (0xE#4 ++ regBits x ++ nn) = .ok (.sknp x nn))
    ∧ (∀ k : Fin 16, s.v[x].toNat = k.val →
        (∃ t, exec (.skp x) s = .next t
          ∧ t.pc = (if s.keypad[k] = true then s.pc + 2 else s.pc) ∧ Frame [.pc] s t)
        ∧ (∃ t, exec (.sknp x nn) s = .next t
          ∧ t.pc = (if s.keypad[k] = false then s.pc + 2 else s.pc) ∧ Frame [.pc] s t))
    ∧ (s.v[x].toNat > 15 →
        exec (.skp x) s = .next { s with
          fault := some (.keypadIndexOutOfRange s.v[x] (0xE#4 ++ regBits x ++ 0x9E#8) (s.pc - 2)) }
        ∧ exec (.sknp x nn) s = .next { s with
          fault := some (.keypadIndexOutOfRange s.v[x] (0xE#4 ++ regBits x ++ nn) (s.pc - 2)) })

/-- R182: the least pressed key; with none, back to `pc_fetch`. The level test, the least key and the
re-execution are the spec's own decision D15 (log entry 18). -/
def Obligations.WaitForKeyTakesTheLeastPressedKey : Prop :=
  ∀ (x : RegIdx) (s : State),
    decode (0xF#4 ++ regBits x ++ 0x0A#8) = .ok (.ldVxK x)
    ∧ (∀ k : Fin 16, s.keypad[k] = true → (∀ j : Fin 16, j < k → s.keypad[j] = false) →
        ∃ t, exec (.ldVxK x) s = .next t ∧ t.v[x].toNat = k.val ∧ Frame [.reg x] s t)
    ∧ ((∀ k : Fin 16, s.keypad[k] = false) →
        exec (.ldVxK x) s = .next { s with pc := s.pc - 2 })

/-- R182: a step of a waiting WAIT-FOR-KEY returns its opcode and leaves the whole state as it was (the
spec's own decision D15; log entry 18). -/
def Obligations.WaitingStepLeavesTheStateAsItWas : Prop :=
  ∀ (x : RegIdx) (s : State), s.fault = none → s.pc.toNat ≤ 0xFFE →
    decode (s.load s.pc.toNat ++ s.load (s.pc.toNat + 1)) = .ok (.ldVxK x) →
    (∀ k : Fin 16, s.keypad[k] = false) →
    stepOutput s = some (.ok (s.load s.pc.toNat ++ s.load (s.pc.toNat + 1)))
      ∧ ∀ n, Sys2Proof.core.run n s = .next s

/-- R183, R184, R185. -/
def Obligations.TimerMovesCopyOneByte : Prop :=
  ∀ (x : RegIdx) (s : State),
    (decode (0xF#4 ++ regBits x ++ 0x07#8) = .ok (.ldVxDt x)
      ∧ ∃ t, exec (.ldVxDt x) s = .next t ∧ t.v[x] = s.dt ∧ Frame [.reg x] s t)
    ∧ (decode (0xF#4 ++ regBits x ++ 0x15#8) = .ok (.ldDtVx x)
      ∧ ∃ t, exec (.ldDtVx x) s = .next t ∧ t.dt = s.v[x] ∧ Frame [.delayTimer] s t)
    ∧ (decode (0xF#4 ++ regBits x ++ 0x18#8) = .ok (.ldStVx x)
      ∧ ∃ t, exec (.ldStVx x) s = .next t ∧ t.st = s.v[x] ∧ Frame [.soundTimer] s t)

/-! ### Faults (60_exceptions.md) -/

/-- R211: a step that ends in a fatal fault changes nothing but the latch and, past the fetch, the
step's own advance of `pc` (the spec's own decision D23; log entry 24). -/
def Obligations.FatalFaultsArePrecise : Prop :=
  ∀ (s t : State) (r : FaultRecord), s.fault = none → step s = .next t → t.fault = some r →
    (s.pc.toNat ≤ 0xFFE → t = { s with pc := s.pc + 2, fault := some r })
    ∧ (0xFFE < s.pc.toNat → t = { s with fault := some r })

/-- Which instruction can raise which fault, with the opcode and `pc_fetch` of R200: R212 (c), the spec's
own inference. -/
def Obligations.EachFaultHasItsOwnInstructions : Prop :=
  ∀ (i : Instr) (s t : State) (r : FaultRecord), s.fault = none → exec i s = .next t →
    t.fault = some r →
    ((∃ addr, i = .call addr) ∧ r = .stackOverflow (encode i) (s.pc - 2))
    ∨ ((∃ x, i = .ret x) ∧ r = .stackUnderflow (encode i) (s.pc - 2))
    ∨ (((∃ x y n, i = .drw x y n) ∨ (∃ x, i = .ldBVx x) ∨ (∃ x, i = .ldMemVx x) ∨ (∃ x, i = .ldVxMem x))
        ∧ ∃ a, 0xFFF < a ∧ r = .memoryOutOfRange a (some (encode i)) (s.pc - 2))
    ∨ (((∃ x, i = .skp x) ∨ (∃ x nn, i = .sknp x nn))
        ∧ ∃ k : Byte, 15 < k.toNat ∧ r = .keypadIndexOutOfRange k (encode i) (s.pc - 2))

/-! ### Whole-machine rules -/

/-- R22, R21: a register changes only as the destination an instruction names, and VF besides only by
the six instructions that write it as a flag, which leave 0 or 1 in it (the spec's own decision D11; log
entry 15). -/
def Obligations.RegistersChangeOnlyAsDestinationOrFlag : Prop :=
  ∀ (i : Instr) (s t : State), exec i s = .next t →
    (∀ k : RegIdx, isDestination k i = false → (k ≠ vf ∨ writesFlag i = false) → t.v[k] = s.v[k])
    ∧ (writesFlag i = true → t.fault = none → t.v[vf] = 0 ∨ t.v[vf] = 1)

/-- Who writes memory, the display, the dirty flag, the stack, `sp`, `I`, `DT` and `ST`: the core's column of
the table of R39. That RETURN leaves the stack entries is R26, the spec's own decision D4 (log entry 10). The
draw counter is the model's own (log entries 3, 4). The registers, the keypad and the configuration, and the
latch have statements of their own. -/
def Obligations.EachFieldHasOnlyItsWriters : Prop :=
  ∀ (i : Instr) (s t : State), exec i s = .next t →
    ((∀ x, i ≠ .ldBVx x ∧ i ≠ .ldMemVx x) → t.mem = s.mem)
    ∧ ((∀ x y n, i ≠ .cls x ∧ i ≠ .drw x y n) →
        t.display = s.display ∧ t.screenUpdated = s.screenUpdated)
    ∧ ((∀ addr, i ≠ .call addr) → t.stack = s.stack)
    ∧ ((∀ addr x, i ≠ .call addr ∧ i ≠ .ret x) → t.sp = s.sp)
    ∧ ((∀ addr x, i ≠ .ldI addr ∧ i ≠ .addIVx x ∧ i ≠ .ldFVx x) → t.i = s.i)
    ∧ ((∀ x, i ≠ .ldDtVx x) → t.dt = s.dt)
    ∧ ((∀ x, i ≠ .ldStVx x) → t.st = s.st)
    ∧ ((∀ x nn, i ≠ .rnd x nn) → t.draws = s.draws)

/-- R39, R33, R209: the core never writes the keypad or its configuration, and never clears the dirty
flag. -/
def Obligations.CoreNeverWritesKeypadConfigOrClearsDirty : Prop :=
  ∀ s t : State, step s = .next t →
    t.keypad = s.keypad ∧ t.font = s.font ∧ t.strictUnknown = s.strictUnknown
    ∧ (s.screenUpdated = true → t.screenUpdated = true)

/-- R29, R33: nothing in the core can observe the sound timer or the dirty flag, by two runs that differ
in nothing else. Both runs draw the same byte at RANDOM-AND because they share the model's draw counter: its
choice, log entry 3. -/
def Obligations.SoundTimerAndDirtyFlagAreUnobservable : Prop :=
  ∀ (s t : State) (st : Byte) (dirty : Bool), step s = .next t →
    ∃ u, step { s with st := st, screenUpdated := dirty } = .next u
      ∧ { u with st := t.st, screenUpdated := t.screenUpdated } = t

/-- R26: nothing can observe a stale stack entry (the spec's own decision D4; log entry 10). Both runs draw
the same byte at RANDOM-AND because they share the model's draw counter: its choice, log entry 3. -/
def Obligations.StaleStackEntriesAreUnobservable : Prop :=
  ∀ s s' t : State, SameButStale s s' → step s = .next t →
    ∃ t', step s' = .next t' ∧ SameButStale t t'

/-- Every step keeps the invariant: the bounds of R40, which the spec marks as its own inference, and the
model's canonical memory (log entry 8). -/
def Obligations.StepKeepsTheInvariant : Prop :=
  ∀ s t : State, Inv s → step s = .next t → Inv t

/-- The invariant at launch: after reset and the load of any ROM. -/
def Obligations.LaunchMeetsTheInvariant : Prop :=
  ∀ (font : Vector Byte 80) (strict : Bool) (draws : Nat) (rom : List Byte),
    Inv (State.launch font strict draws rom)

/-- The invariant holds right after reset. -/
def Obligations.ResetMeetsTheInvariant : Prop := Inv State.reset

/-- It holds in every reachable state, whatever the environment did between the steps: the
bounds of R40, the spec's own inference, and the model's canonical memory (log entry 8). -/
def Obligations.ReachableStatesMeetTheInvariant : Prop :=
  ∀ s : State, Reachable s → Inv s

/-- Equal memories are equal data: the model's canonical form is unique (log entry 8). -/
def Obligations.CanonicalMemoryIsUnique : Prop :=
  ∀ (font : Vector Byte 80) (m m' : Memory), Memory.wf font m → Memory.wf font m' →
    (∀ a, Memory.read font m a = Memory.read font m' a) → m = m'

/-- R260: at rest, every further step of a silent environment changes nothing at all (the spec's own
decision D29; log entry 35). -/
def Obligations.AtRestNothingChanges : Prop :=
  ∀ (s : State) (n : Nat), AtRest s → Sys2Proof.core.run n s = .next s

/-- R260: from a state at rest, however steps and environment transitions go on, the machine stays at rest,
every step returns the same opcode, and only the timers, the keys and the dirty flag can have moved (the
spec's own decision D29; log entry 35). -/
def Obligations.AtRestOnlyTheEnvironmentMoves : Prop :=
  ∀ (s : State) (schedule : List Action), AtRest s → (∀ a ∈ schedule, a.isLaunch = false) →
    ∃ t opcode, s.runActions schedule = .next t ∧ AtRest t
      ∧ stepOutput s = some (.ok opcode) ∧ stepOutput t = some (.ok opcode)
      ∧ { t with dt := s.dt, st := s.st, keypad := s.keypad, screenUpdated := s.screenUpdated } = s

/-- R260, observation point 2: of the schedules that continue one another only one ends at the first state
at rest, and it ends with a step: no environment transition brings a machine to rest (the spec's own decision
D29; log entry 35). -/
def Obligations.FirstRestIsOneStateReachedByAStep : Prop :=
  ∀ (start t : State) (schedule : List Action), EndsAtRest start schedule t →
    (schedule = [] ∨ ∃ before, schedule = before ++ [.step])
    ∧ ∀ (longer : List Action) (u : State), schedule <+: longer → EndsAtRest start longer u →
        longer = schedule ∧ u = t

/-- R260, observation point 1: in a silent environment, the state after `n` steps is what `n` steps of the
core lead to, without a latched fault (the spec's own decision D29; log entry 35). -/
def Obligations.AfterStepsOfASilentRunIsTheCoreRun : Prop :=
  ∀ (n : Nat) (start t : State), Launched start →
    (AfterSteps n start (List.replicate n .step) t ↔ Sys2Proof.core.run n start = .next t ∧ Running t)

/-! ### Reset, loading and the environment -/

/-- R38: the state after reset, field by field. The font is the machine's `FONT` (R52). -/
def Obligations.ResetLeavesTheStatedValues : Prop :=
  ∀ (font : Vector Byte 80) (strict : Bool) (draws : Nat),
    let s := State.resetWith font strict draws
    (∀ a, (h : a < 80) → s.load a = font[a]) ∧ (∀ a, 80 ≤ a → s.load a = 0)
    ∧ (∀ k : RegIdx, s.v[k] = 0) ∧ s.i = 0 ∧ s.dt = 0 ∧ s.st = 0 ∧ s.pc = 0x200
    ∧ (∀ k : Fin 16, s.stack[k] = 0) ∧ s.sp = 0 ∧ (∀ k : Fin 16, s.keypad[k] = false)
    ∧ (∀ c r, s.display.cell c r = false) ∧ s.screenUpdated = true ∧ s.fault = none

/-- R242: the image lands verbatim from 0x200, at most 3584 bytes of it, and nothing else changes. -/
def Obligations.RomLoadCopiesVerbatimFrom200 : Prop :=
  ∀ (s : State) (rom : List Byte), Memory.wf s.font s.mem →
    (∀ k, (h : k < rom.length) → k < 3584 → (s.loadRom rom).load (0x200 + k) = rom[k])
    ∧ FrameStore 0x200 (min rom.length 3584) s (s.loadRom rom)

/-- R217: one tick moves each timer one towards zero and nothing else; that one tick moves both is the
spec's own decision D26 (log entry 28). -/
def Obligations.TickMovesBothTimersTowardZero : Prop :=
  ∀ s : State, s.tick.dt.toNat = s.dt.toNat - 1 ∧ s.tick.st.toNat = s.st.toNat - 1
    ∧ Frame [.delayTimer, .soundTimer] s s.tick

/-- R218, R219, R224: what the keypad source and the presenter do, and that no environment transition
touches `V`, `I`, `pc`, the stack, memory or the display. The linear order of the frame is the spec's own
decision D5 (log entry 9). -/
def Obligations.EnvironmentTouchesOnlyItsOwnFields : Prop :=
  (∀ (s : State) (keys : Vector Bool 16),
    (s.env (.keys keys)).keypad = keys ∧ Frame ((List.finRange 16).map .key) s (s.env (.keys keys)))
  ∧ (∀ s : State, (s.env .present).screenUpdated = false ∧ Frame [.dirty] s (s.env .present))
  ∧ (∀ s : State, s.screenUpdated = true →
      ∃ f, s.frame = some f ∧ ∀ (c : Fin 64) (r : Fin 32) (idx : Fin 2048),
        idx.val = r.val * 64 + c.val → f[idx] = s.display.cell c r)
  ∧ (∀ s : State, s.screenUpdated = false → s.frame = none)
  ∧ ∀ (s : State) (e : EnvEvent), (s.env e).v = s.v ∧ (s.env e).i = s.i ∧ (s.env e).pc = s.pc
      ∧ (s.env e).sp = s.sp ∧ (s.env e).stack = s.stack ∧ (s.env e).mem = s.mem
      ∧ (s.env e).display = s.display ∧ (s.env e).fault = s.fault
end

