-- ==== Sys2Proof/Laws/Encoding.lean ====
section
/-! SUPPORT. The fields of a packed opcode and the packing of a word's own fields (30_encoding.md R74,
R75). -/

namespace Sys2Proof

@[simp] theorem upperNibble_packNNN (op : Nibble) (a : Addr) :
    upperNibble (packNNN op a) = op := by
  apply BitVec.eq_of_getLsbD_eq
  intro i hi
  simp only [upperNibble, packNNN, BitVec.getLsbD_append, BitVec.getLsbD_extractLsb']
  simp [show ¬ 12 + i < 12 by omega, hi]

@[simp] theorem fieldAddr_packNNN (op : Nibble) (a : Addr) :
    fieldAddr (packNNN op a) = a := by
  apply BitVec.eq_of_getLsbD_eq
  intro i hi
  simp only [fieldAddr, packNNN, BitVec.getLsbD_append, BitVec.getLsbD_extractLsb']
  simp [hi]

@[simp] theorem upperNibble_packXNN (op : Nibble) (x : RegIdx) (nn : Byte) :
    upperNibble (packXNN op x nn) = op := by
  apply BitVec.eq_of_getLsbD_eq
  intro i hi
  simp only [upperNibble, packXNN, BitVec.getLsbD_append, BitVec.getLsbD_extractLsb']
  simp [show ¬ 12 + i < 8 by omega, show ¬ 12 + i - 8 < 4 by omega, show 12 + i - 8 - 4 = i by omega, hi]

@[simp] theorem fieldX_packXNN (op : Nibble) (x : RegIdx) (nn : Byte) :
    fieldX (packXNN op x nn) = x := by
  have h : (packXNN op x nn).extractLsb' 8 4 = regBits x := by
    apply BitVec.eq_of_getLsbD_eq
    intro i hi
    simp only [packXNN, BitVec.getLsbD_append, BitVec.getLsbD_extractLsb']
    simp [show ¬ 8 + i < 8 by omega, hi]
  simp only [fieldX, h, regBits]

@[simp] theorem fieldByte_packXNN (op : Nibble) (x : RegIdx) (nn : Byte) :
    fieldByte (packXNN op x nn) = nn := by
  apply BitVec.eq_of_getLsbD_eq
  intro i hi
  simp only [fieldByte, packXNN, BitVec.getLsbD_append, BitVec.getLsbD_extractLsb']
  simp [hi]

@[simp] theorem upperNibble_packXYN (op : Nibble) (x y : RegIdx) (n : Nibble) :
    upperNibble (packXYN op x y n) = op := by
  apply BitVec.eq_of_getLsbD_eq
  intro i hi
  simp only [upperNibble, packXYN, BitVec.getLsbD_append, BitVec.getLsbD_extractLsb']
  simp [show ¬ 12 + i < 4 by omega, show ¬ 12 + i - 4 < 4 by omega, show ¬ 12 + i - 4 - 4 < 4 by omega, show 12 + i - 4 - 4 - 4 = i by omega, hi]

@[simp] theorem fieldX_packXYN (op : Nibble) (x y : RegIdx) (n : Nibble) :
    fieldX (packXYN op x y n) = x := by
  have h : (packXYN op x y n).extractLsb' 8 4 = regBits x := by
    apply BitVec.eq_of_getLsbD_eq
    intro i hi
    simp only [packXYN, BitVec.getLsbD_append, BitVec.getLsbD_extractLsb']
    simp [show ¬ 8 + i < 4 by omega, show ¬ 8 + i - 4 < 4 by omega, show 8 + i - 4 - 4 = i by omega, hi]
  simp only [fieldX, h, regBits]

@[simp] theorem fieldY_packXYN (op : Nibble) (x y : RegIdx) (n : Nibble) :
    fieldY (packXYN op x y n) = y := by
  have h : (packXYN op x y n).extractLsb' 4 4 = regBits y := by
    apply BitVec.eq_of_getLsbD_eq
    intro i hi
    simp only [packXYN, BitVec.getLsbD_append, BitVec.getLsbD_extractLsb']
    simp [show ¬ 4 + i < 4 by omega, hi]
  simp only [fieldY, h, regBits]

@[simp] theorem fieldN_packXYN (op : Nibble) (x y : RegIdx) (n : Nibble) :
    fieldN (packXYN op x y n) = n := by
  apply BitVec.eq_of_getLsbD_eq
  intro i hi
  simp only [fieldN, packXYN, BitVec.getLsbD_append, BitVec.getLsbD_extractLsb']
  simp [hi]

/-- R75: `addr` and `upper_nibble` are the whole word. -/
theorem packNNN_fields (w : Word) : packNNN (upperNibble w) (fieldAddr w) = w := by
  apply BitVec.eq_of_getLsbD_eq
  intro i hi
  simp only [packNNN, upperNibble, fieldAddr, BitVec.getLsbD_append, BitVec.getLsbD_extractLsb']
  split
  · simp [*]
  · simp [show i - 12 < 4 by omega, show 12 + (i - 12) = i by omega]

/-- R75: `upper_nibble`, `x` and `byte` are the whole word. -/
theorem packXNN_fields (w : Word) : packXNN (upperNibble w) (fieldX w) (fieldByte w) = w := by
  apply BitVec.eq_of_getLsbD_eq
  intro i hi
  simp only [packXNN, upperNibble, fieldX, fieldByte, regBits, BitVec.ofFin_toFin, BitVec.getLsbD_append,
    BitVec.getLsbD_extractLsb']
  split
  · simp [*]
  · split
    · simp [*, show 8 + (i - 8) = i by omega]
    · simp [show i - 8 - 4 < 4 by omega, show 12 + (i - 8 - 4) = i by omega]

/-- R75: `upper_nibble`, `x`, `y` and `nibble` are the whole word. -/
theorem packXYN_fields (w : Word) :
    packXYN (upperNibble w) (fieldX w) (fieldY w) (fieldN w) = w := by
  apply BitVec.eq_of_getLsbD_eq
  intro i hi
  simp only [packXYN, upperNibble, fieldX, fieldY, fieldN, regBits, BitVec.ofFin_toFin,
    BitVec.getLsbD_append, BitVec.getLsbD_extractLsb']
  split
  · simp [*]
  · split
    · simp [*, show 4 + (i - 4) = i by omega]
    · split
      · simp [*, show 8 + (i - 4 - 4) = i by omega]
      · simp [show i - 4 - 4 - 4 < 4 by omega, show 12 + (i - 4 - 4 - 4) = i by omega]

/-- R56: splitting an opcode into its two bytes and joining them gives it back. -/
@[simp] theorem opcodeOf_bytes (w : Word) : opcodeOf (highByte w) (lowByte w) = w := by
  apply BitVec.eq_of_getLsbD_eq
  intro i hi
  simp only [opcodeOf, highByte, lowByte, BitVec.getLsbD_append, BitVec.getLsbD_extractLsb']
  split
  · simp [*]
  · simp [show i - 8 < 8 by omega, show 8 + (i - 8) = i by omega]

@[simp] theorem highByte_opcodeOf (hi lo : Byte) : highByte (opcodeOf hi lo) = hi := by
  apply BitVec.eq_of_getLsbD_eq
  intro i h
  simp only [highByte, opcodeOf, BitVec.getLsbD_append, BitVec.getLsbD_extractLsb']
  simp [h]

@[simp] theorem lowByte_opcodeOf (hi lo : Byte) : lowByte (opcodeOf hi lo) = lo := by
  apply BitVec.eq_of_getLsbD_eq
  intro i h
  simp only [lowByte, opcodeOf, BitVec.getLsbD_append, BitVec.getLsbD_extractLsb']
  simp [h]

end Sys2Proof
end

