-- ==== Sys2Proof/Laws/State.lean ====
section
/-! SUPPORT. Beside the state: what each update does to each field, so that no proof unfolds a record
update. -/

namespace Sys2Proof.Machine

/-! ### setV -/

@[simp] theorem State.setV_v (s : State) (x : RegIdx) (b : Byte) : (s.setV x b).v = s.v.set x b := rfl
@[simp] theorem State.setV_i (s : State) (x : RegIdx) (b : Byte) : (s.setV x b).i = s.i := rfl
@[simp] theorem State.setV_pc (s : State) (x : RegIdx) (b : Byte) : (s.setV x b).pc = s.pc := rfl
@[simp] theorem State.setV_stack (s : State) (x : RegIdx) (b : Byte) : (s.setV x b).stack = s.stack := rfl
@[simp] theorem State.setV_sp (s : State) (x : RegIdx) (b : Byte) : (s.setV x b).sp = s.sp := rfl
@[simp] theorem State.setV_dt (s : State) (x : RegIdx) (b : Byte) : (s.setV x b).dt = s.dt := rfl
@[simp] theorem State.setV_st (s : State) (x : RegIdx) (b : Byte) : (s.setV x b).st = s.st := rfl
@[simp] theorem State.setV_keypad (s : State) (x : RegIdx) (b : Byte) : (s.setV x b).keypad = s.keypad := rfl
@[simp] theorem State.setV_display (s : State) (x : RegIdx) (b : Byte) : (s.setV x b).display = s.display := rfl
@[simp] theorem State.setV_screenUpdated (s : State) (x : RegIdx) (b : Byte) : (s.setV x b).screenUpdated = s.screenUpdated := rfl
@[simp] theorem State.setV_mem (s : State) (x : RegIdx) (b : Byte) : (s.setV x b).mem = s.mem := rfl
@[simp] theorem State.setV_fault (s : State) (x : RegIdx) (b : Byte) : (s.setV x b).fault = s.fault := rfl
@[simp] theorem State.setV_font (s : State) (x : RegIdx) (b : Byte) : (s.setV x b).font = s.font := rfl
@[simp] theorem State.setV_strictUnknown (s : State) (x : RegIdx) (b : Byte) : (s.setV x b).strictUnknown = s.strictUnknown := rfl
@[simp] theorem State.setV_draws (s : State) (x : RegIdx) (b : Byte) : (s.setV x b).draws = s.draws := rfl

/-! ### setI -/

@[simp] theorem State.setI_v (s : State) (w : Word) : (s.setI w).v = s.v := rfl
@[simp] theorem State.setI_i (s : State) (w : Word) : (s.setI w).i = w := rfl
@[simp] theorem State.setI_pc (s : State) (w : Word) : (s.setI w).pc = s.pc := rfl
@[simp] theorem State.setI_stack (s : State) (w : Word) : (s.setI w).stack = s.stack := rfl
@[simp] theorem State.setI_sp (s : State) (w : Word) : (s.setI w).sp = s.sp := rfl
@[simp] theorem State.setI_dt (s : State) (w : Word) : (s.setI w).dt = s.dt := rfl
@[simp] theorem State.setI_st (s : State) (w : Word) : (s.setI w).st = s.st := rfl
@[simp] theorem State.setI_keypad (s : State) (w : Word) : (s.setI w).keypad = s.keypad := rfl
@[simp] theorem State.setI_display (s : State) (w : Word) : (s.setI w).display = s.display := rfl
@[simp] theorem State.setI_screenUpdated (s : State) (w : Word) : (s.setI w).screenUpdated = s.screenUpdated := rfl
@[simp] theorem State.setI_mem (s : State) (w : Word) : (s.setI w).mem = s.mem := rfl
@[simp] theorem State.setI_fault (s : State) (w : Word) : (s.setI w).fault = s.fault := rfl
@[simp] theorem State.setI_font (s : State) (w : Word) : (s.setI w).font = s.font := rfl
@[simp] theorem State.setI_strictUnknown (s : State) (w : Word) : (s.setI w).strictUnknown = s.strictUnknown := rfl
@[simp] theorem State.setI_draws (s : State) (w : Word) : (s.setI w).draws = s.draws := rfl

/-! ### setPc -/

@[simp] theorem State.setPc_v (s : State) (w : Word) : (s.setPc w).v = s.v := rfl
@[simp] theorem State.setPc_i (s : State) (w : Word) : (s.setPc w).i = s.i := rfl
@[simp] theorem State.setPc_pc (s : State) (w : Word) : (s.setPc w).pc = w := rfl
@[simp] theorem State.setPc_stack (s : State) (w : Word) : (s.setPc w).stack = s.stack := rfl
@[simp] theorem State.setPc_sp (s : State) (w : Word) : (s.setPc w).sp = s.sp := rfl
@[simp] theorem State.setPc_dt (s : State) (w : Word) : (s.setPc w).dt = s.dt := rfl
@[simp] theorem State.setPc_st (s : State) (w : Word) : (s.setPc w).st = s.st := rfl
@[simp] theorem State.setPc_keypad (s : State) (w : Word) : (s.setPc w).keypad = s.keypad := rfl
@[simp] theorem State.setPc_display (s : State) (w : Word) : (s.setPc w).display = s.display := rfl
@[simp] theorem State.setPc_screenUpdated (s : State) (w : Word) : (s.setPc w).screenUpdated = s.screenUpdated := rfl
@[simp] theorem State.setPc_mem (s : State) (w : Word) : (s.setPc w).mem = s.mem := rfl
@[simp] theorem State.setPc_fault (s : State) (w : Word) : (s.setPc w).fault = s.fault := rfl
@[simp] theorem State.setPc_font (s : State) (w : Word) : (s.setPc w).font = s.font := rfl
@[simp] theorem State.setPc_strictUnknown (s : State) (w : Word) : (s.setPc w).strictUnknown = s.strictUnknown := rfl
@[simp] theorem State.setPc_draws (s : State) (w : Word) : (s.setPc w).draws = s.draws := rfl

/-! ### setDt -/

@[simp] theorem State.setDt_v (s : State) (b : Byte) : (s.setDt b).v = s.v := rfl
@[simp] theorem State.setDt_i (s : State) (b : Byte) : (s.setDt b).i = s.i := rfl
@[simp] theorem State.setDt_pc (s : State) (b : Byte) : (s.setDt b).pc = s.pc := rfl
@[simp] theorem State.setDt_stack (s : State) (b : Byte) : (s.setDt b).stack = s.stack := rfl
@[simp] theorem State.setDt_sp (s : State) (b : Byte) : (s.setDt b).sp = s.sp := rfl
@[simp] theorem State.setDt_dt (s : State) (b : Byte) : (s.setDt b).dt = b := rfl
@[simp] theorem State.setDt_st (s : State) (b : Byte) : (s.setDt b).st = s.st := rfl
@[simp] theorem State.setDt_keypad (s : State) (b : Byte) : (s.setDt b).keypad = s.keypad := rfl
@[simp] theorem State.setDt_display (s : State) (b : Byte) : (s.setDt b).display = s.display := rfl
@[simp] theorem State.setDt_screenUpdated (s : State) (b : Byte) : (s.setDt b).screenUpdated = s.screenUpdated := rfl
@[simp] theorem State.setDt_mem (s : State) (b : Byte) : (s.setDt b).mem = s.mem := rfl
@[simp] theorem State.setDt_fault (s : State) (b : Byte) : (s.setDt b).fault = s.fault := rfl
@[simp] theorem State.setDt_font (s : State) (b : Byte) : (s.setDt b).font = s.font := rfl
@[simp] theorem State.setDt_strictUnknown (s : State) (b : Byte) : (s.setDt b).strictUnknown = s.strictUnknown := rfl
@[simp] theorem State.setDt_draws (s : State) (b : Byte) : (s.setDt b).draws = s.draws := rfl

/-! ### setSt -/

@[simp] theorem State.setSt_v (s : State) (b : Byte) : (s.setSt b).v = s.v := rfl
@[simp] theorem State.setSt_i (s : State) (b : Byte) : (s.setSt b).i = s.i := rfl
@[simp] theorem State.setSt_pc (s : State) (b : Byte) : (s.setSt b).pc = s.pc := rfl
@[simp] theorem State.setSt_stack (s : State) (b : Byte) : (s.setSt b).stack = s.stack := rfl
@[simp] theorem State.setSt_sp (s : State) (b : Byte) : (s.setSt b).sp = s.sp := rfl
@[simp] theorem State.setSt_dt (s : State) (b : Byte) : (s.setSt b).dt = s.dt := rfl
@[simp] theorem State.setSt_st (s : State) (b : Byte) : (s.setSt b).st = b := rfl
@[simp] theorem State.setSt_keypad (s : State) (b : Byte) : (s.setSt b).keypad = s.keypad := rfl
@[simp] theorem State.setSt_display (s : State) (b : Byte) : (s.setSt b).display = s.display := rfl
@[simp] theorem State.setSt_screenUpdated (s : State) (b : Byte) : (s.setSt b).screenUpdated = s.screenUpdated := rfl
@[simp] theorem State.setSt_mem (s : State) (b : Byte) : (s.setSt b).mem = s.mem := rfl
@[simp] theorem State.setSt_fault (s : State) (b : Byte) : (s.setSt b).fault = s.fault := rfl
@[simp] theorem State.setSt_font (s : State) (b : Byte) : (s.setSt b).font = s.font := rfl
@[simp] theorem State.setSt_strictUnknown (s : State) (b : Byte) : (s.setSt b).strictUnknown = s.strictUnknown := rfl
@[simp] theorem State.setSt_draws (s : State) (b : Byte) : (s.setSt b).draws = s.draws := rfl

/-! ### advance -/

@[simp] theorem State.advance_v (s : State) : s.advance.v = s.v := rfl
@[simp] theorem State.advance_i (s : State) : s.advance.i = s.i := rfl
@[simp] theorem State.advance_pc (s : State) : s.advance.pc = s.pc + 2 := rfl
@[simp] theorem State.advance_stack (s : State) : s.advance.stack = s.stack := rfl
@[simp] theorem State.advance_sp (s : State) : s.advance.sp = s.sp := rfl
@[simp] theorem State.advance_dt (s : State) : s.advance.dt = s.dt := rfl
@[simp] theorem State.advance_st (s : State) : s.advance.st = s.st := rfl
@[simp] theorem State.advance_keypad (s : State) : s.advance.keypad = s.keypad := rfl
@[simp] theorem State.advance_display (s : State) : s.advance.display = s.display := rfl
@[simp] theorem State.advance_screenUpdated (s : State) : s.advance.screenUpdated = s.screenUpdated := rfl
@[simp] theorem State.advance_mem (s : State) : s.advance.mem = s.mem := rfl
@[simp] theorem State.advance_fault (s : State) : s.advance.fault = s.fault := rfl
@[simp] theorem State.advance_font (s : State) : s.advance.font = s.font := rfl
@[simp] theorem State.advance_strictUnknown (s : State) : s.advance.strictUnknown = s.strictUnknown := rfl
@[simp] theorem State.advance_draws (s : State) : s.advance.draws = s.draws := rfl

/-! ### nextDraw -/

@[simp] theorem State.nextDraw_v (s : State) : s.nextDraw.v = s.v := rfl
@[simp] theorem State.nextDraw_i (s : State) : s.nextDraw.i = s.i := rfl
@[simp] theorem State.nextDraw_pc (s : State) : s.nextDraw.pc = s.pc := rfl
@[simp] theorem State.nextDraw_stack (s : State) : s.nextDraw.stack = s.stack := rfl
@[simp] theorem State.nextDraw_sp (s : State) : s.nextDraw.sp = s.sp := rfl
@[simp] theorem State.nextDraw_dt (s : State) : s.nextDraw.dt = s.dt := rfl
@[simp] theorem State.nextDraw_st (s : State) : s.nextDraw.st = s.st := rfl
@[simp] theorem State.nextDraw_keypad (s : State) : s.nextDraw.keypad = s.keypad := rfl
@[simp] theorem State.nextDraw_display (s : State) : s.nextDraw.display = s.display := rfl
@[simp] theorem State.nextDraw_screenUpdated (s : State) : s.nextDraw.screenUpdated = s.screenUpdated := rfl
@[simp] theorem State.nextDraw_mem (s : State) : s.nextDraw.mem = s.mem := rfl
@[simp] theorem State.nextDraw_fault (s : State) : s.nextDraw.fault = s.fault := rfl
@[simp] theorem State.nextDraw_font (s : State) : s.nextDraw.font = s.font := rfl
@[simp] theorem State.nextDraw_strictUnknown (s : State) : s.nextDraw.strictUnknown = s.strictUnknown := rfl
@[simp] theorem State.nextDraw_draws (s : State) : s.nextDraw.draws = s.draws + 1 := rfl

/-! ### store -/

@[simp] theorem State.store_v (s : State) (a : Nat) (b : Byte) : (s.store a b).v = s.v := rfl
@[simp] theorem State.store_i (s : State) (a : Nat) (b : Byte) : (s.store a b).i = s.i := rfl
@[simp] theorem State.store_pc (s : State) (a : Nat) (b : Byte) : (s.store a b).pc = s.pc := rfl
@[simp] theorem State.store_stack (s : State) (a : Nat) (b : Byte) : (s.store a b).stack = s.stack := rfl
@[simp] theorem State.store_sp (s : State) (a : Nat) (b : Byte) : (s.store a b).sp = s.sp := rfl
@[simp] theorem State.store_dt (s : State) (a : Nat) (b : Byte) : (s.store a b).dt = s.dt := rfl
@[simp] theorem State.store_st (s : State) (a : Nat) (b : Byte) : (s.store a b).st = s.st := rfl
@[simp] theorem State.store_keypad (s : State) (a : Nat) (b : Byte) : (s.store a b).keypad = s.keypad := rfl
@[simp] theorem State.store_display (s : State) (a : Nat) (b : Byte) : (s.store a b).display = s.display := rfl
@[simp] theorem State.store_screenUpdated (s : State) (a : Nat) (b : Byte) : (s.store a b).screenUpdated = s.screenUpdated := rfl
@[simp] theorem State.store_mem (s : State) (a : Nat) (b : Byte) : (s.store a b).mem = Memory.write s.font s.mem a b := rfl
@[simp] theorem State.store_fault (s : State) (a : Nat) (b : Byte) : (s.store a b).fault = s.fault := rfl
@[simp] theorem State.store_font (s : State) (a : Nat) (b : Byte) : (s.store a b).font = s.font := rfl
@[simp] theorem State.store_strictUnknown (s : State) (a : Nat) (b : Byte) : (s.store a b).strictUnknown = s.strictUnknown := rfl
@[simp] theorem State.store_draws (s : State) (a : Nat) (b : Byte) : (s.store a b).draws = s.draws := rfl

/-! ### setDisplay -/

@[simp] theorem State.setDisplay_v (s : State) (d : Display) : (s.setDisplay d).v = s.v := rfl
@[simp] theorem State.setDisplay_i (s : State) (d : Display) : (s.setDisplay d).i = s.i := rfl
@[simp] theorem State.setDisplay_pc (s : State) (d : Display) : (s.setDisplay d).pc = s.pc := rfl
@[simp] theorem State.setDisplay_stack (s : State) (d : Display) : (s.setDisplay d).stack = s.stack := rfl
@[simp] theorem State.setDisplay_sp (s : State) (d : Display) : (s.setDisplay d).sp = s.sp := rfl
@[simp] theorem State.setDisplay_dt (s : State) (d : Display) : (s.setDisplay d).dt = s.dt := rfl
@[simp] theorem State.setDisplay_st (s : State) (d : Display) : (s.setDisplay d).st = s.st := rfl
@[simp] theorem State.setDisplay_keypad (s : State) (d : Display) : (s.setDisplay d).keypad = s.keypad := rfl
@[simp] theorem State.setDisplay_display (s : State) (d : Display) : (s.setDisplay d).display = d := rfl
@[simp] theorem State.setDisplay_screenUpdated (s : State) (d : Display) : (s.setDisplay d).screenUpdated = true := rfl
@[simp] theorem State.setDisplay_mem (s : State) (d : Display) : (s.setDisplay d).mem = s.mem := rfl
@[simp] theorem State.setDisplay_fault (s : State) (d : Display) : (s.setDisplay d).fault = s.fault := rfl
@[simp] theorem State.setDisplay_font (s : State) (d : Display) : (s.setDisplay d).font = s.font := rfl
@[simp] theorem State.setDisplay_strictUnknown (s : State) (d : Display) : (s.setDisplay d).strictUnknown = s.strictUnknown := rfl
@[simp] theorem State.setDisplay_draws (s : State) (d : Display) : (s.setDisplay d).draws = s.draws := rfl

/-! ### raise -/

@[simp] theorem State.raise_v (s : State) (r : FaultRecord) : (s.raise r).v = s.v := rfl
@[simp] theorem State.raise_i (s : State) (r : FaultRecord) : (s.raise r).i = s.i := rfl
@[simp] theorem State.raise_pc (s : State) (r : FaultRecord) : (s.raise r).pc = s.pc := rfl
@[simp] theorem State.raise_stack (s : State) (r : FaultRecord) : (s.raise r).stack = s.stack := rfl
@[simp] theorem State.raise_sp (s : State) (r : FaultRecord) : (s.raise r).sp = s.sp := rfl
@[simp] theorem State.raise_dt (s : State) (r : FaultRecord) : (s.raise r).dt = s.dt := rfl
@[simp] theorem State.raise_st (s : State) (r : FaultRecord) : (s.raise r).st = s.st := rfl
@[simp] theorem State.raise_keypad (s : State) (r : FaultRecord) : (s.raise r).keypad = s.keypad := rfl
@[simp] theorem State.raise_display (s : State) (r : FaultRecord) : (s.raise r).display = s.display := rfl
@[simp] theorem State.raise_screenUpdated (s : State) (r : FaultRecord) : (s.raise r).screenUpdated = s.screenUpdated := rfl
@[simp] theorem State.raise_mem (s : State) (r : FaultRecord) : (s.raise r).mem = s.mem := rfl
@[simp] theorem State.raise_fault (s : State) (r : FaultRecord) : (s.raise r).fault = some r := rfl
@[simp] theorem State.raise_font (s : State) (r : FaultRecord) : (s.raise r).font = s.font := rfl
@[simp] theorem State.raise_strictUnknown (s : State) (r : FaultRecord) : (s.raise r).strictUnknown = s.strictUnknown := rfl
@[simp] theorem State.raise_draws (s : State) (r : FaultRecord) : (s.raise r).draws = s.draws := rfl

/-! ### setKeys -/

@[simp] theorem State.setKeys_v (s : State) (keys : Vector Bool 16) : (s.setKeys keys).v = s.v := rfl
@[simp] theorem State.setKeys_i (s : State) (keys : Vector Bool 16) : (s.setKeys keys).i = s.i := rfl
@[simp] theorem State.setKeys_pc (s : State) (keys : Vector Bool 16) : (s.setKeys keys).pc = s.pc := rfl
@[simp] theorem State.setKeys_stack (s : State) (keys : Vector Bool 16) : (s.setKeys keys).stack = s.stack := rfl
@[simp] theorem State.setKeys_sp (s : State) (keys : Vector Bool 16) : (s.setKeys keys).sp = s.sp := rfl
@[simp] theorem State.setKeys_dt (s : State) (keys : Vector Bool 16) : (s.setKeys keys).dt = s.dt := rfl
@[simp] theorem State.setKeys_st (s : State) (keys : Vector Bool 16) : (s.setKeys keys).st = s.st := rfl
@[simp] theorem State.setKeys_keypad (s : State) (keys : Vector Bool 16) : (s.setKeys keys).keypad = keys := rfl
@[simp] theorem State.setKeys_display (s : State) (keys : Vector Bool 16) : (s.setKeys keys).display = s.display := rfl
@[simp] theorem State.setKeys_screenUpdated (s : State) (keys : Vector Bool 16) : (s.setKeys keys).screenUpdated = s.screenUpdated := rfl
@[simp] theorem State.setKeys_mem (s : State) (keys : Vector Bool 16) : (s.setKeys keys).mem = s.mem := rfl
@[simp] theorem State.setKeys_fault (s : State) (keys : Vector Bool 16) : (s.setKeys keys).fault = s.fault := rfl
@[simp] theorem State.setKeys_font (s : State) (keys : Vector Bool 16) : (s.setKeys keys).font = s.font := rfl
@[simp] theorem State.setKeys_strictUnknown (s : State) (keys : Vector Bool 16) : (s.setKeys keys).strictUnknown = s.strictUnknown := rfl
@[simp] theorem State.setKeys_draws (s : State) (keys : Vector Bool 16) : (s.setKeys keys).draws = s.draws := rfl

/-! ### present -/

@[simp] theorem State.present_v (s : State) : s.present.v = s.v := rfl
@[simp] theorem State.present_i (s : State) : s.present.i = s.i := rfl
@[simp] theorem State.present_pc (s : State) : s.present.pc = s.pc := rfl
@[simp] theorem State.present_stack (s : State) : s.present.stack = s.stack := rfl
@[simp] theorem State.present_sp (s : State) : s.present.sp = s.sp := rfl
@[simp] theorem State.present_dt (s : State) : s.present.dt = s.dt := rfl
@[simp] theorem State.present_st (s : State) : s.present.st = s.st := rfl
@[simp] theorem State.present_keypad (s : State) : s.present.keypad = s.keypad := rfl
@[simp] theorem State.present_display (s : State) : s.present.display = s.display := rfl
@[simp] theorem State.present_screenUpdated (s : State) : s.present.screenUpdated = false := rfl
@[simp] theorem State.present_mem (s : State) : s.present.mem = s.mem := rfl
@[simp] theorem State.present_fault (s : State) : s.present.fault = s.fault := rfl
@[simp] theorem State.present_font (s : State) : s.present.font = s.font := rfl
@[simp] theorem State.present_strictUnknown (s : State) : s.present.strictUnknown = s.strictUnknown := rfl
@[simp] theorem State.present_draws (s : State) : s.present.draws = s.draws := rfl

/-! ### tick -/

@[simp] theorem State.tick_v (s : State) : s.tick.v = s.v := rfl
@[simp] theorem State.tick_i (s : State) : s.tick.i = s.i := rfl
@[simp] theorem State.tick_pc (s : State) : s.tick.pc = s.pc := rfl
@[simp] theorem State.tick_stack (s : State) : s.tick.stack = s.stack := rfl
@[simp] theorem State.tick_sp (s : State) : s.tick.sp = s.sp := rfl
@[simp] theorem State.tick_dt (s : State) : s.tick.dt = if s.dt = 0 then 0 else s.dt - 1 := rfl
@[simp] theorem State.tick_st (s : State) : s.tick.st = if s.st = 0 then 0 else s.st - 1 := rfl
@[simp] theorem State.tick_keypad (s : State) : s.tick.keypad = s.keypad := rfl
@[simp] theorem State.tick_display (s : State) : s.tick.display = s.display := rfl
@[simp] theorem State.tick_screenUpdated (s : State) : s.tick.screenUpdated = s.screenUpdated := rfl
@[simp] theorem State.tick_mem (s : State) : s.tick.mem = s.mem := rfl
@[simp] theorem State.tick_fault (s : State) : s.tick.fault = s.fault := rfl
@[simp] theorem State.tick_font (s : State) : s.tick.font = s.font := rfl
@[simp] theorem State.tick_strictUnknown (s : State) : s.tick.strictUnknown = s.strictUnknown := rfl
@[simp] theorem State.tick_draws (s : State) : s.tick.draws = s.draws := rfl

/-! ### loadRegs -/

@[simp] theorem State.loadRegs_v (s : State) (base : Nat) (x : RegIdx) : (s.loadRegs base x).v = Vector.ofFn fun k => if k ≤ x then s.load (base + k.val) else s.v[k] := rfl
@[simp] theorem State.loadRegs_i (s : State) (base : Nat) (x : RegIdx) : (s.loadRegs base x).i = s.i := rfl
@[simp] theorem State.loadRegs_pc (s : State) (base : Nat) (x : RegIdx) : (s.loadRegs base x).pc = s.pc := rfl
@[simp] theorem State.loadRegs_stack (s : State) (base : Nat) (x : RegIdx) : (s.loadRegs base x).stack = s.stack := rfl
@[simp] theorem State.loadRegs_sp (s : State) (base : Nat) (x : RegIdx) : (s.loadRegs base x).sp = s.sp := rfl
@[simp] theorem State.loadRegs_dt (s : State) (base : Nat) (x : RegIdx) : (s.loadRegs base x).dt = s.dt := rfl
@[simp] theorem State.loadRegs_st (s : State) (base : Nat) (x : RegIdx) : (s.loadRegs base x).st = s.st := rfl
@[simp] theorem State.loadRegs_keypad (s : State) (base : Nat) (x : RegIdx) : (s.loadRegs base x).keypad = s.keypad := rfl
@[simp] theorem State.loadRegs_display (s : State) (base : Nat) (x : RegIdx) : (s.loadRegs base x).display = s.display := rfl
@[simp] theorem State.loadRegs_screenUpdated (s : State) (base : Nat) (x : RegIdx) : (s.loadRegs base x).screenUpdated = s.screenUpdated := rfl
@[simp] theorem State.loadRegs_mem (s : State) (base : Nat) (x : RegIdx) : (s.loadRegs base x).mem = s.mem := rfl
@[simp] theorem State.loadRegs_fault (s : State) (base : Nat) (x : RegIdx) : (s.loadRegs base x).fault = s.fault := rfl
@[simp] theorem State.loadRegs_font (s : State) (base : Nat) (x : RegIdx) : (s.loadRegs base x).font = s.font := rfl
@[simp] theorem State.loadRegs_strictUnknown (s : State) (base : Nat) (x : RegIdx) : (s.loadRegs base x).strictUnknown = s.strictUnknown := rfl
@[simp] theorem State.loadRegs_draws (s : State) (base : Nat) (x : RegIdx) : (s.loadRegs base x).draws = s.draws := rfl

/-! ### skipIf: every field but `pc` -/

@[simp] theorem State.skipIf_v (s : State) (c : Bool) : (s.skipIf c).v = s.v := by cases c <;> rfl
@[simp] theorem State.skipIf_i (s : State) (c : Bool) : (s.skipIf c).i = s.i := by cases c <;> rfl
@[simp] theorem State.skipIf_pc (s : State) (c : Bool) : (s.skipIf c).pc = if c then s.pc + 2 else s.pc := by
  cases c <;> rfl
@[simp] theorem State.skipIf_stack (s : State) (c : Bool) : (s.skipIf c).stack = s.stack := by cases c <;> rfl
@[simp] theorem State.skipIf_sp (s : State) (c : Bool) : (s.skipIf c).sp = s.sp := by cases c <;> rfl
@[simp] theorem State.skipIf_dt (s : State) (c : Bool) : (s.skipIf c).dt = s.dt := by cases c <;> rfl
@[simp] theorem State.skipIf_st (s : State) (c : Bool) : (s.skipIf c).st = s.st := by cases c <;> rfl
@[simp] theorem State.skipIf_keypad (s : State) (c : Bool) : (s.skipIf c).keypad = s.keypad := by cases c <;> rfl
@[simp] theorem State.skipIf_display (s : State) (c : Bool) : (s.skipIf c).display = s.display := by cases c <;> rfl
@[simp] theorem State.skipIf_screenUpdated (s : State) (c : Bool) : (s.skipIf c).screenUpdated = s.screenUpdated := by cases c <;> rfl
@[simp] theorem State.skipIf_mem (s : State) (c : Bool) : (s.skipIf c).mem = s.mem := by cases c <;> rfl
@[simp] theorem State.skipIf_fault (s : State) (c : Bool) : (s.skipIf c).fault = s.fault := by cases c <;> rfl
@[simp] theorem State.skipIf_font (s : State) (c : Bool) : (s.skipIf c).font = s.font := by cases c <;> rfl
@[simp] theorem State.skipIf_strictUnknown (s : State) (c : Bool) : (s.skipIf c).strictUnknown = s.strictUnknown := by cases c <;> rfl
@[simp] theorem State.skipIf_draws (s : State) (c : Bool) : (s.skipIf c).draws = s.draws := by cases c <;> rfl

/-! ### storeBytes: every field but `mem` -/

@[simp] theorem State.storeBytes_v (s : State) (a : Nat) (bs : List Byte) : (s.storeBytes a bs).v = s.v := by
  induction bs generalizing s a with
  | nil => rfl
  | cons b bs ih => simp [State.storeBytes, ih]
@[simp] theorem State.storeBytes_i (s : State) (a : Nat) (bs : List Byte) : (s.storeBytes a bs).i = s.i := by
  induction bs generalizing s a with
  | nil => rfl
  | cons b bs ih => simp [State.storeBytes, ih]
@[simp] theorem State.storeBytes_pc (s : State) (a : Nat) (bs : List Byte) : (s.storeBytes a bs).pc = s.pc := by
  induction bs generalizing s a with
  | nil => rfl
  | cons b bs ih => simp [State.storeBytes, ih]
@[simp] theorem State.storeBytes_stack (s : State) (a : Nat) (bs : List Byte) : (s.storeBytes a bs).stack = s.stack := by
  induction bs generalizing s a with
  | nil => rfl
  | cons b bs ih => simp [State.storeBytes, ih]
@[simp] theorem State.storeBytes_sp (s : State) (a : Nat) (bs : List Byte) : (s.storeBytes a bs).sp = s.sp := by
  induction bs generalizing s a with
  | nil => rfl
  | cons b bs ih => simp [State.storeBytes, ih]
@[simp] theorem State.storeBytes_dt (s : State) (a : Nat) (bs : List Byte) : (s.storeBytes a bs).dt = s.dt := by
  induction bs generalizing s a with
  | nil => rfl
  | cons b bs ih => simp [State.storeBytes, ih]
@[simp] theorem State.storeBytes_st (s : State) (a : Nat) (bs : List Byte) : (s.storeBytes a bs).st = s.st := by
  induction bs generalizing s a with
  | nil => rfl
  | cons b bs ih => simp [State.storeBytes, ih]
@[simp] theorem State.storeBytes_keypad (s : State) (a : Nat) (bs : List Byte) : (s.storeBytes a bs).keypad = s.keypad := by
  induction bs generalizing s a with
  | nil => rfl
  | cons b bs ih => simp [State.storeBytes, ih]
@[simp] theorem State.storeBytes_display (s : State) (a : Nat) (bs : List Byte) : (s.storeBytes a bs).display = s.display := by
  induction bs generalizing s a with
  | nil => rfl
  | cons b bs ih => simp [State.storeBytes, ih]
@[simp] theorem State.storeBytes_screenUpdated (s : State) (a : Nat) (bs : List Byte) : (s.storeBytes a bs).screenUpdated = s.screenUpdated := by
  induction bs generalizing s a with
  | nil => rfl
  | cons b bs ih => simp [State.storeBytes, ih]
@[simp] theorem State.storeBytes_fault (s : State) (a : Nat) (bs : List Byte) : (s.storeBytes a bs).fault = s.fault := by
  induction bs generalizing s a with
  | nil => rfl
  | cons b bs ih => simp [State.storeBytes, ih]
@[simp] theorem State.storeBytes_font (s : State) (a : Nat) (bs : List Byte) : (s.storeBytes a bs).font = s.font := by
  induction bs generalizing s a with
  | nil => rfl
  | cons b bs ih => simp [State.storeBytes, ih]
@[simp] theorem State.storeBytes_strictUnknown (s : State) (a : Nat) (bs : List Byte) : (s.storeBytes a bs).strictUnknown = s.strictUnknown := by
  induction bs generalizing s a with
  | nil => rfl
  | cons b bs ih => simp [State.storeBytes, ih]
@[simp] theorem State.storeBytes_draws (s : State) (a : Nat) (bs : List Byte) : (s.storeBytes a bs).draws = s.draws := by
  induction bs generalizing s a with
  | nil => rfl
  | cons b bs ih => simp [State.storeBytes, ih]

/-! ### setResult: every field but `v` -/

@[simp] theorem State.setResult_i (s : State) (x : RegIdx) (b : Byte) (c : Bool) : (s.setResult x b c).i = s.i := rfl
@[simp] theorem State.setResult_pc (s : State) (x : RegIdx) (b : Byte) (c : Bool) : (s.setResult x b c).pc = s.pc := rfl
@[simp] theorem State.setResult_stack (s : State) (x : RegIdx) (b : Byte) (c : Bool) : (s.setResult x b c).stack = s.stack := rfl
@[simp] theorem State.setResult_sp (s : State) (x : RegIdx) (b : Byte) (c : Bool) : (s.setResult x b c).sp = s.sp := rfl
@[simp] theorem State.setResult_dt (s : State) (x : RegIdx) (b : Byte) (c : Bool) : (s.setResult x b c).dt = s.dt := rfl
@[simp] theorem State.setResult_st (s : State) (x : RegIdx) (b : Byte) (c : Bool) : (s.setResult x b c).st = s.st := rfl
@[simp] theorem State.setResult_keypad (s : State) (x : RegIdx) (b : Byte) (c : Bool) : (s.setResult x b c).keypad = s.keypad := rfl
@[simp] theorem State.setResult_display (s : State) (x : RegIdx) (b : Byte) (c : Bool) : (s.setResult x b c).display = s.display := rfl
@[simp] theorem State.setResult_screenUpdated (s : State) (x : RegIdx) (b : Byte) (c : Bool) : (s.setResult x b c).screenUpdated = s.screenUpdated := rfl
@[simp] theorem State.setResult_mem (s : State) (x : RegIdx) (b : Byte) (c : Bool) : (s.setResult x b c).mem = s.mem := rfl
@[simp] theorem State.setResult_fault (s : State) (x : RegIdx) (b : Byte) (c : Bool) : (s.setResult x b c).fault = s.fault := rfl
@[simp] theorem State.setResult_font (s : State) (x : RegIdx) (b : Byte) (c : Bool) : (s.setResult x b c).font = s.font := rfl
@[simp] theorem State.setResult_strictUnknown (s : State) (x : RegIdx) (b : Byte) (c : Bool) : (s.setResult x b c).strictUnknown = s.strictUnknown := rfl
@[simp] theorem State.setResult_draws (s : State) (x : RegIdx) (b : Byte) (c : Bool) : (s.setResult x b c).draws = s.draws := rfl

end Sys2Proof.Machine
end

