-- ==== Sys2Proof/Laws/Memory.lean ====
section
/-! SUPPORT. The laws of memory: a read after a write, and that every memory operation keeps the
canonical form. -/

namespace Sys2Proof.Machine

/-! ### Reading after listing and unlisting -/

theorem Memory.lookup_insert_same (m : Memory) (a : Nat) (v : Byte) :
    Memory.lookup (Memory.insert m a v) a = some v := by
  induction m with
  | nil => simp [Memory.insert, Memory.lookup]
  | cons c m ih =>
    obtain ⟨b, w⟩ := c
    simp only [Memory.insert]
    split
    · simp [Memory.lookup]
    · split
      · simp [Memory.lookup]
      · have : b ≠ a := by omega
        simp [Memory.lookup, this, ih]

theorem Memory.lookup_insert_ne (m : Memory) (a b : Nat) (v : Byte) (h : b ≠ a) :
    Memory.lookup (Memory.insert m a v) b = Memory.lookup m b := by
  induction m with
  | nil => simp [Memory.insert, Memory.lookup, Ne.symm h]
  | cons c m ih =>
    obtain ⟨k, w⟩ := c
    simp only [Memory.insert]
    split
    · simp [Memory.lookup, Ne.symm h]
    · split
      · next hk => simp [Memory.lookup, Ne.symm h, ← hk]
      · simp [Memory.lookup, ih]

theorem Memory.lookup_erase_ne (m : Memory) (a b : Nat) (h : b ≠ a) :
    Memory.lookup (Memory.erase m a) b = Memory.lookup m b := by
  induction m with
  | nil => rfl
  | cons c m ih =>
    obtain ⟨k, w⟩ := c
    simp only [Memory.erase]
    split
    · next hk => simp [Memory.lookup, hk, Ne.symm h]
    · simp [Memory.lookup, ih]

/-- An address below every listed one is not listed. -/
theorem Memory.lookup_none_of_lt (m : Memory) (a : Nat) (h : ∀ c ∈ m, a < c.1) :
    Memory.lookup m a = none := by
  induction m with
  | nil => rfl
  | cons c m ih =>
    have hc := h c (by simp)
    have : c.1 ≠ a := by omega
    simp [Memory.lookup, this, ih fun d hd => h d (by simp [hd])]

theorem Memory.lookup_erase_same (m : Memory) (a : Nat) (h : m.Pairwise (fun c d => c.1 < d.1)) :
    Memory.lookup (Memory.erase m a) a = none := by
  induction m with
  | nil => rfl
  | cons c m ih =>
    obtain ⟨k, w⟩ := c
    rw [List.pairwise_cons] at h
    simp only [Memory.erase]
    split
    · next hk => exact Memory.lookup_none_of_lt m a fun d hd => hk ▸ h.1 d hd
    · next hk => simp [Memory.lookup, hk, ih h.2]

/-- Read after write, same address. -/
theorem Memory.read_write_same (font : Vector Byte 80) (m : Memory) (a : Nat) (v : Byte)
    (hm : m.Pairwise (fun c d => c.1 < d.1)) (ha : a < Config.memSize) :
    Memory.read font (Memory.write font m a v) a = v := by
  simp only [Memory.read, Memory.write, ha, if_true]
  split
  · next hv => simp [Memory.lookup_erase_same m a hm, hv]
  · simp [Memory.lookup_insert_same]

/-- Read after write, another address. -/
theorem Memory.read_write_ne (font : Vector Byte 80) (m : Memory) (a b : Nat) (v : Byte) (h : b ≠ a) :
    Memory.read font (Memory.write font m a v) b = Memory.read font m b := by
  simp only [Memory.read, Memory.write]
  split
  · split
    · rw [Memory.lookup_erase_ne m a b h]
    · rw [Memory.lookup_insert_ne m a b v h]
  · rfl

/-! ### The canonical form -/

theorem Memory.mem_insert (m : Memory) (a : Nat) (v : Byte) (c : Host.Cell)
    (h : c ∈ Memory.insert m a v) : c = (a, v) ∨ c ∈ m := by
  induction m with
  | nil => simpa [Memory.insert] using h
  | cons d m ih =>
    obtain ⟨k, w⟩ := d
    simp only [Memory.insert] at h
    split at h
    · simpa using h
    · split at h
      · rcases List.mem_cons.mp h with h | h <;> simp [h]
      · rcases List.mem_cons.mp h with h | h
        · simp [h]
        · rcases ih h with h | h <;> simp [h]

theorem Memory.mem_erase (m : Memory) (a : Nat) (c : Host.Cell) (h : c ∈ Memory.erase m a) : c ∈ m := by
  induction m with
  | nil => simp [Memory.erase] at h
  | cons d m ih =>
    simp only [Memory.erase] at h
    split at h
    · simp [h]
    · rcases List.mem_cons.mp h with h | h
      · simp [h]
      · simp [ih h]

theorem Memory.insert_sorted (m : Memory) (a : Nat) (v : Byte) (h : m.Pairwise (fun c d => c.1 < d.1)) :
    (Memory.insert m a v).Pairwise (fun c d => c.1 < d.1) := by
  induction m with
  | nil => simp [Memory.insert]
  | cons d m ih =>
    obtain ⟨k, w⟩ := d
    have h' := List.pairwise_cons.mp h
    simp only [Memory.insert]
    split
    · next hk =>
      refine List.pairwise_cons.mpr ⟨fun c hc => ?_, h⟩
      rcases List.mem_cons.mp hc with hc | hc
      · simpa [hc] using hk
      · exact Nat.lt_trans hk (h'.1 c hc)
    · split
      · next hk => exact List.pairwise_cons.mpr ⟨fun c hc => hk ▸ h'.1 c hc, h'.2⟩
      · refine List.pairwise_cons.mpr ⟨fun c hc => ?_, ih h'.2⟩
        rcases Memory.mem_insert m a v c hc with hc | hc
        · simp only [hc]; omega
        · exact h'.1 c hc

theorem Memory.erase_sorted (m : Memory) (a : Nat) (h : m.Pairwise (fun c d => c.1 < d.1)) :
    (Memory.erase m a).Pairwise (fun c d => c.1 < d.1) := by
  induction m with
  | nil => simp [Memory.erase]
  | cons d m ih =>
    have h' := List.pairwise_cons.mp h
    simp only [Memory.erase]
    split
    · exact h'.2
    · exact List.pairwise_cons.mpr ⟨fun c hc => h'.1 c (Memory.mem_erase m a c hc), ih h'.2⟩

/-- Every write keeps the canonical form. -/
theorem Memory.write_wf (font : Vector Byte 80) (m : Memory) (a : Nat) (v : Byte)
    (h : Memory.wf font m) : Memory.wf font (Memory.write font m a v) := by
  simp only [Memory.write]
  split
  · next ha =>
    split
    · exact ⟨Memory.erase_sorted m a h.1, fun c hc => h.2 c (Memory.mem_erase m a c hc)⟩
    · next hv =>
      refine ⟨Memory.insert_sorted m a v h.1, fun c hc => ?_⟩
      rcases Memory.mem_insert m a v c hc with rfl | hc
      · exact ⟨ha, hv⟩
      · exact h.2 c hc
  · exact h

/-! ### The state's memory -/

theorem State.load_store_same (s : State) (a : Nat) (b : Byte) (hm : Memory.wf s.font s.mem)
    (ha : a < Config.memSize) : (s.store a b).load a = b :=
  Memory.read_write_same s.font s.mem a b hm.1 ha

theorem State.load_store_ne (s : State) (a k : Nat) (b : Byte) (h : k ≠ a) :
    (s.store a b).load k = s.load k :=
  Memory.read_write_ne s.font s.mem a k b h

theorem State.storeBytes_wf (s : State) (a : Nat) (bs : List Byte) (h : Memory.wf s.font s.mem) :
    Memory.wf s.font (s.storeBytes a bs).mem := by
  induction bs generalizing s a with
  | nil => exact h
  | cons b bs ih =>
    have h1 : Memory.wf (s.store a b).font (s.store a b).mem := Memory.write_wf s.font s.mem a b h
    exact ih (s.store a b) (a + 1) h1

/-- A block store leaves every byte outside the block alone. -/
theorem State.load_storeBytes_ne (s : State) (a k : Nat) (bs : List Byte)
    (h : k < a ∨ a + bs.length ≤ k) : (s.storeBytes a bs).load k = s.load k := by
  induction bs generalizing s a with
  | nil => rfl
  | cons b bs ih =>
    simp only [List.length_cons] at h
    rw [State.storeBytes, ih (s.store a b) (a + 1) (by omega),
      State.load_store_ne s a k b (by omega)]

/-- A block store puts the `j`-th byte at `a + j`. -/
theorem State.load_storeBytes_at (s : State) (a j : Nat) (bs : List Byte) (hj : j < bs.length)
    (hm : Memory.wf s.font s.mem) (ha : a + bs.length ≤ Config.memSize) :
    (s.storeBytes a bs).load (a + j) = bs[j] := by
  induction bs generalizing s a j with
  | nil => simp at hj
  | cons b bs ih =>
    simp only [List.length_cons] at hj ha
    have h1 : Memory.wf (s.store a b).font (s.store a b).mem := Memory.write_wf s.font s.mem a b hm
    cases j with
    | zero =>
      rw [State.storeBytes, State.load_storeBytes_ne _ _ _ _ (by omega), Nat.add_zero,
        State.load_store_same s a b hm (by omega)]
      rfl
    | succ j =>
      have := ih (s.store a b) (a + 1) j (by omega) h1 (by omega)
      rw [State.storeBytes, show a + (j + 1) = a + 1 + j by omega, this]
      rfl

/-- The reset memory is in canonical form. -/
theorem State.resetWith_mem_wf (font : Vector Byte 80) (strict : Bool) (draws : Nat) :
    Memory.wf (State.resetWith font strict draws).font (State.resetWith font strict draws).mem :=
  ⟨List.Pairwise.nil, fun _ h => absurd h List.not_mem_nil⟩

end Sys2Proof.Machine
end

