-- ==== Sys2Proof/Laws/Ops.lean ====
section
/-! SUPPORT. One lemma for each shared operation, saying once everything it can do. -/

namespace Sys2Proof.Machine

/-! ### Registers -/

theorem State.getV_setV (s : State) (x k : RegIdx) (b : Byte) :
    (s.setV x b).getV k = if x = k then b else s.getV k := by
  simp [State.getV, State.setV, Vector.getElem_set, Fin.ext_iff]

/-- R41: VF ends with the flag, also when it is the destination. -/
theorem State.getV_setResult (s : State) (x k : RegIdx) (b : Byte) (flag : Bool) :
    (s.setResult x b flag).getV k =
      if k = vf then flagByte flag else if k = x then b else s.getV k := by
  simp only [State.setResult, State.getV_setV, eq_comm]

theorem State.getV_loadRegs (s : State) (base : Nat) (x k : RegIdx) :
    (s.loadRegs base x).getV k = if k ≤ x then s.load (base + k.val) else s.getV k := by
  simp [State.getV, State.loadRegs]

theorem State.skipIf_cases (s : State) (c : Bool) :
    (c = true ∧ s.skipIf c = s.setPc (s.pc + 2)) ∨ (c = false ∧ s.skipIf c = s) := by
  cases c <;> simp [State.skipIf]

theorem State.pcFetch_advance (s : State) : s.advance.pcFetch = s.pc := by
  simp [State.pcFetch]

/-! ### The bounds check -/

/-- R54, R204: no address is bad exactly when the whole block lies in memory. -/
theorem lowestBad_none (base n : Nat) : lowestBad base n = none ↔ n = 0 ∨ base + n ≤ 4096 := by
  simp only [lowestBad, Config.memSize]
  split <;> simp <;> omega

/-- R204: the address reported is in the block, out of range, and the lowest such. -/
theorem lowestBad_some (base n a : Nat) :
    lowestBad base n = some a ↔
      (base ≤ a ∧ a < base + n ∧ 4096 ≤ a) ∧ ∀ b, base ≤ b → b < a → b < 4096 := by
  simp only [lowestBad, Config.memSize]
  split
  · next h =>
    simp only [Option.some.injEq]
    constructor
    · rintro rfl; exact ⟨by omega, fun b h1 h2 => by omega⟩
    · rintro ⟨h1, h2⟩
      by_contra hne
      have := h2 (max base 4096) (by omega) (by omega)
      omega
  · next h =>
    simp only [reduceCtorEq, false_iff]
    rintro ⟨h1, -⟩; omega

/-- What an access of a block can do: its effect, or the fault and nothing else. -/
theorem State.withRange_cases (s : State) (i : Instr) (base n : Nat) (effect : State) :
    (lowestBad base n = none ∧ s.withRange i base n effect = effect) ∨
    (∃ a, lowestBad base n = some a ∧
      s.withRange i base n effect = s.raise (.memoryOutOfRange a (some (encode i)) s.pcFetch)) := by
  cases h : lowestBad base n <;> simp [State.withRange, h]

/-! ### The stack -/

theorem State.push_none (s : State) (w : Word) : s.push w = none ↔ s.sp = 16 := by
  have := s.sp.isLt
  simp only [State.push, Fin.ext_iff]
  split <;> simp <;> omega

/-- A push: the entry at the old `sp`, `sp` one up, nothing else. -/
theorem State.push_some (s t : State) (w : Word) (h : s.push w = some t) :
    ∃ hs : s.sp.val < 16,
      t = { s with stack := s.stack.set s.sp.val w, sp := ⟨s.sp.val + 1, by omega⟩ } := by
  simp only [State.push] at h
  split at h
  · next hs => exact ⟨hs, by simpa using h.symm⟩
  · simp at h

theorem State.pop_none (s : State) : s.pop = none ↔ s.sp = 0 := by
  simp only [State.pop, Fin.ext_iff]
  split <;> simp <;> omega

/-- A pop: the entry below `sp`, `sp` one down, nothing else. -/
theorem State.pop_some (s t : State) (w : Word) (h : s.pop = some (w, t)) :
    ∃ hs : 0 < s.sp.val,
      w = s.stack[s.sp.val - 1] ∧ t = { s with sp := ⟨s.sp.val - 1, by omega⟩ } := by
  simp only [State.pop] at h
  split at h
  · next hs =>
    simp only [Option.some.injEq, Prod.mk.injEq] at h
    exact ⟨hs, h.1.symm, h.2.symm⟩
  · simp at h

/-! ### The display -/

theorem Display.cell_flip (d : Display) (c c' : Fin 64) (r r' : Fin 32) :
    Display.cell (Display.flip d c r) c' r' =
      if c = c' ∧ r = r' then !Display.cell d c' r' else Display.cell d c' r' := by
  simp only [Display.cell, Display.flip, Fin.getElem_fin, Vector.getElem_set, Fin.ext_iff]
  by_cases hr : r.val = r'.val
  · by_cases hc : c.val = c'.val
    · simp [hr, hc]
    · simp [hr, hc]
  · simp [hr]

theorem Display.cell_blank (c : Fin 64) (r : Fin 32) : Display.cell Display.blank c r = false := by
  simp [Display.cell, Display.blank]

/-- Two displays with the same cells are the same display. -/
theorem Display.ext (d e : Display) (h : ∀ c r, Display.cell d c r = Display.cell e c r) : d = e := by
  apply Vector.ext
  intro r hr
  apply Vector.ext
  intro c hc
  exact h ⟨c, hc⟩ ⟨r, hr⟩

/-! ### Keys -/

theorem keyOf_none (b : Byte) : keyOf b = none ↔ 15 < b.toNat := by
  simp only [keyOf]
  split <;> simp <;> omega

theorem keyOf_some (b : Byte) (k : Fin 16) : keyOf b = some k ↔ b.toNat = k.val := by
  simp only [keyOf]
  split
  · simp [Fin.ext_iff]
  · have := k.isLt
    simp; omega

/-- What a key skip can do (R180, R181, R205). -/
theorem State.keySkip_cases (s : State) (i : Instr) (x : RegIdx) (pressed : Bool) :
    (∃ k, keyOf (s.getV x) = some k ∧ s.keySkip i x pressed = s.skipIf (s.key k == pressed)) ∨
    (keyOf (s.getV x) = none ∧
      s.keySkip i x pressed = s.raise (.keypadIndexOutOfRange (s.getV x) (encode i) s.pcFetch)) := by
  cases h : keyOf (s.getV x) <;> simp [State.keySkip, h]

/-- The least pressed key is pressed and no key below it is (R182). -/
theorem State.leastKey_some (s : State) (k : Fin 16) (h : s.leastKey = some k) :
    s.key k = true ∧ ∀ j < k, s.key j = false := by
  rw [State.leastKey, List.find?_eq_some_iff_append] at h
  obtain ⟨hk, as, bs, heq, hall⟩ := h
  refine ⟨by simpa using hk, fun j hj => ?_⟩
  have hs : (as ++ k :: bs).Pairwise (· < ·) := heq ▸ List.pairwise_lt_finRange 16
  have hm : j ∈ as ++ k :: bs := heq ▸ List.mem_finRange j
  rw [List.pairwise_append] at hs
  rcases List.mem_append.mp hm with hm | hm
  · simpa using hall j hm
  · rcases List.mem_cons.mp hm with rfl | hm
    · exact absurd hj (lt_irrefl _)
    · exact absurd hj (not_lt_of_gt ((List.pairwise_cons.mp hs.2.1).1 j hm))

theorem State.leastKey_none (s : State) : s.leastKey = none ↔ ∀ k, s.key k = false := by
  simp [State.leastKey, List.find?_eq_none]

/-! ### The fetch and the unknown opcode -/

/-- What a fetch can do (R58, R70). -/
theorem State.fetch_cases (s : State) :
    (s.pc.toNat ≤ 0xFFE ∧
      s.fetch = .ok (opcodeOf (s.load s.pc.toNat) (s.load (s.pc.toNat + 1)))) ∨
    (0xFFE < s.pc.toNat ∧ s.fetch = .error (max s.pc.toNat 0x1000)) := by
  simp only [State.fetch, lowestBad, Config.memSize]
  by_cases h : s.pc.toNat ≤ 0xFFE
  · have h0 : ¬(0 < 2 ∧ 4096 < s.pc.toNat + 2) := by omega
    exact .inl ⟨h, by simp only [h0, if_false]⟩
  · have h0 : 0 < 2 ∧ 4096 < s.pc.toNat + 2 := by omega
    exact .inr ⟨by omega, by rw [if_pos h0]⟩

theorem State.unknown_cases (s : State) (opcode : Word) :
    (s.strictUnknown = false ∧ s.unknown opcode = s) ∨
    (s.strictUnknown = true ∧ s.unknown opcode = s.raise (.unknownOpcode opcode s.pcFetch)) := by
  cases h : s.strictUnknown <;> simp [State.unknown, h]

end Sys2Proof.Machine
end

