-- ==== Sys2Proof/Laws/PerInstr.lean ====
section
/-! SUPPORT. The laws made once per instruction. `TableRow`: the encoding of an instruction selects its
row of the opcode table (30_encoding.md R84), that is, the word masked by the row's mask is the row's
match. -/

namespace Sys2Proof.Laws.TableRow

/-- The row's `mask` (R84, spec/opcode_table.json). -/
def mask : Instr → Word
  | .cls _ => 0xF0FF
  | .ret _ => 0xF0FF
  | .jp _ => 0xF000
  | .call _ => 0xF000
  | .seImm _ _ => 0xF000
  | .sneImm _ _ => 0xF000
  | .seReg _ _ _ => 0xF000
  | .ldImm _ _ => 0xF000
  | .addImm _ _ => 0xF000
  | .ldReg _ _ => 0xF00F
  | .orReg _ _ => 0xF00F
  | .andReg _ _ => 0xF00F
  | .xorReg _ _ => 0xF00F
  | .addReg _ _ => 0xF00F
  | .sub _ _ => 0xF00F
  | .shr _ _ => 0xF00F
  | .subn _ _ => 0xF00F
  | .shl _ _ => 0xF00F
  | .sneReg _ _ _ => 0xF000
  | .ldI _ => 0xF000
  | .jpV0 _ => 0xF000
  | .rnd _ _ => 0xF000
  | .drw _ _ _ => 0xF000
  | .skp _ => 0xF0FF
  | .sknp _ _ => 0xF000
  | .ldVxDt _ => 0xF0FF
  | .ldVxK _ => 0xF0FF
  | .ldDtVx _ => 0xF0FF
  | .ldStVx _ => 0xF0FF
  | .addIVx _ => 0xF0FF
  | .ldFVx _ => 0xF0FF
  | .ldBVx _ => 0xF0FF
  | .ldMemVx _ => 0xF0FF
  | .ldVxMem _ => 0xF0FF

/-- The row's `match` (R84, spec/opcode_table.json). -/
def pattern : Instr → Word
  | .cls _ => 0x00E0
  | .ret _ => 0x00EE
  | .jp _ => 0x1000
  | .call _ => 0x2000
  | .seImm _ _ => 0x3000
  | .sneImm _ _ => 0x4000
  | .seReg _ _ _ => 0x5000
  | .ldImm _ _ => 0x6000
  | .addImm _ _ => 0x7000
  | .ldReg _ _ => 0x8000
  | .orReg _ _ => 0x8001
  | .andReg _ _ => 0x8002
  | .xorReg _ _ => 0x8003
  | .addReg _ _ => 0x8004
  | .sub _ _ => 0x8005
  | .shr _ _ => 0x8006
  | .subn _ _ => 0x8007
  | .shl _ _ => 0x800E
  | .sneReg _ _ _ => 0x9000
  | .ldI _ => 0xA000
  | .jpV0 _ => 0xB000
  | .rnd _ _ => 0xC000
  | .drw _ _ _ => 0xD000
  | .skp _ => 0xE09E
  | .sknp _ _ => 0xE000
  | .ldVxDt _ => 0xF007
  | .ldVxK _ => 0xF00A
  | .ldDtVx _ => 0xF015
  | .ldStVx _ => 0xF018
  | .addIVx _ => 0xF01E
  | .ldFVx _ => 0xF029
  | .ldBVx _ => 0xF033
  | .ldMemVx _ => 0xF055
  | .ldVxMem _ => 0xF065

/-- The word of an instruction selects the instruction's row. -/
def Statement (i : Instr) : Prop := encode i &&& mask i = pattern i

theorem packNNN_and (op : Nibble) (a : Addr) : packNNN op a &&& 0xF000#16 = packNNN op 0 := by
  apply BitVec.eq_of_getLsbD_eq
  intro i hi
  simp only [packNNN, BitVec.getLsbD_and, BitVec.getLsbD_append]
  interval_cases i <;> simp

theorem packXNN_and_op (op : Nibble) (x : RegIdx) (nn : Byte) :
    packXNN op x nn &&& 0xF000#16 = packXNN op 0 0 := by
  apply BitVec.eq_of_getLsbD_eq
  intro i hi
  simp only [packXNN, BitVec.getLsbD_and, BitVec.getLsbD_append]
  interval_cases i <;> simp [regBits]

theorem packXNN_and_op_byte (op : Nibble) (x : RegIdx) (nn : Byte) :
    packXNN op x nn &&& 0xF0FF#16 = packXNN op 0 nn := by
  apply BitVec.eq_of_getLsbD_eq
  intro i hi
  simp only [packXNN, BitVec.getLsbD_and, BitVec.getLsbD_append]
  interval_cases i <;> simp [regBits]

theorem packXYN_and_op (op : Nibble) (x y : RegIdx) (n : Nibble) :
    packXYN op x y n &&& 0xF000#16 = packXYN op 0 0 0 := by
  apply BitVec.eq_of_getLsbD_eq
  intro i hi
  simp only [packXYN, BitVec.getLsbD_and, BitVec.getLsbD_append]
  interval_cases i <;> simp [regBits]

theorem packXYN_and_op_nibble (op : Nibble) (x y : RegIdx) (n : Nibble) :
    packXYN op x y n &&& 0xF00F#16 = packXYN op 0 0 n := by
  apply BitVec.eq_of_getLsbD_eq
  intro i hi
  simp only [packXYN, BitVec.getLsbD_and, BitVec.getLsbD_append]
  interval_cases i <;> simp [regBits]

theorem cls (x : RegIdx) : Statement (.cls x) := (packXNN_and_op_byte _ _ _).trans rfl

theorem ret (x : RegIdx) : Statement (.ret x) := (packXNN_and_op_byte _ _ _).trans rfl

theorem jp (addr : Addr) : Statement (.jp addr) := (packNNN_and _ _).trans rfl

theorem call (addr : Addr) : Statement (.call addr) := (packNNN_and _ _).trans rfl

theorem seImm (x : RegIdx) (nn : Byte) : Statement (.seImm x nn) := (packXNN_and_op _ _ _).trans rfl

theorem sneImm (x : RegIdx) (nn : Byte) : Statement (.sneImm x nn) := (packXNN_and_op _ _ _).trans rfl

theorem seReg (x y : RegIdx) (n : Nibble) : Statement (.seReg x y n) := (packXYN_and_op _ _ _ _).trans rfl

theorem ldImm (x : RegIdx) (nn : Byte) : Statement (.ldImm x nn) := (packXNN_and_op _ _ _).trans rfl

theorem addImm (x : RegIdx) (nn : Byte) : Statement (.addImm x nn) := (packXNN_and_op _ _ _).trans rfl

theorem ldReg (x y : RegIdx) : Statement (.ldReg x y) := (packXYN_and_op_nibble _ _ _ _).trans rfl

theorem orReg (x y : RegIdx) : Statement (.orReg x y) := (packXYN_and_op_nibble _ _ _ _).trans rfl

theorem andReg (x y : RegIdx) : Statement (.andReg x y) := (packXYN_and_op_nibble _ _ _ _).trans rfl

theorem xorReg (x y : RegIdx) : Statement (.xorReg x y) := (packXYN_and_op_nibble _ _ _ _).trans rfl

theorem addReg (x y : RegIdx) : Statement (.addReg x y) := (packXYN_and_op_nibble _ _ _ _).trans rfl

theorem sub (x y : RegIdx) : Statement (.sub x y) := (packXYN_and_op_nibble _ _ _ _).trans rfl

theorem shr (x y : RegIdx) : Statement (.shr x y) := (packXYN_and_op_nibble _ _ _ _).trans rfl

theorem subn (x y : RegIdx) : Statement (.subn x y) := (packXYN_and_op_nibble _ _ _ _).trans rfl

theorem shl (x y : RegIdx) : Statement (.shl x y) := (packXYN_and_op_nibble _ _ _ _).trans rfl

theorem sneReg (x y : RegIdx) (n : Nibble) : Statement (.sneReg x y n) := (packXYN_and_op _ _ _ _).trans rfl

theorem ldI (addr : Addr) : Statement (.ldI addr) := (packNNN_and _ _).trans rfl

theorem jpV0 (addr : Addr) : Statement (.jpV0 addr) := (packNNN_and _ _).trans rfl

theorem rnd (x : RegIdx) (nn : Byte) : Statement (.rnd x nn) := (packXNN_and_op _ _ _).trans rfl

theorem drw (x y : RegIdx) (n : Nibble) : Statement (.drw x y n) := (packXYN_and_op _ _ _ _).trans rfl

theorem skp (x : RegIdx) : Statement (.skp x) := (packXNN_and_op_byte _ _ _).trans rfl

theorem sknp (x : RegIdx) (nn : Byte) : Statement (.sknp x nn) := (packXNN_and_op _ _ _).trans rfl

theorem ldVxDt (x : RegIdx) : Statement (.ldVxDt x) := (packXNN_and_op_byte _ _ _).trans rfl

theorem ldVxK (x : RegIdx) : Statement (.ldVxK x) := (packXNN_and_op_byte _ _ _).trans rfl

theorem ldDtVx (x : RegIdx) : Statement (.ldDtVx x) := (packXNN_and_op_byte _ _ _).trans rfl

theorem ldStVx (x : RegIdx) : Statement (.ldStVx x) := (packXNN_and_op_byte _ _ _).trans rfl

theorem addIVx (x : RegIdx) : Statement (.addIVx x) := (packXNN_and_op_byte _ _ _).trans rfl

theorem ldFVx (x : RegIdx) : Statement (.ldFVx x) := (packXNN_and_op_byte _ _ _).trans rfl

theorem ldBVx (x : RegIdx) : Statement (.ldBVx x) := (packXNN_and_op_byte _ _ _).trans rfl

theorem ldMemVx (x : RegIdx) : Statement (.ldMemVx x) := (packXNN_and_op_byte _ _ _).trans rfl

theorem ldVxMem (x : RegIdx) : Statement (.ldVxMem x) := (packXNN_and_op_byte _ _ _).trans rfl

end Sys2Proof.Laws.TableRow
end

