-- ==== Sys2Proof/Laws/Step.lean ====
section
/-! SUPPORT. The step of a machine that may be stepped, without the latch test. -/

namespace Sys2Proof.Machine

/-- R70 for a running machine: the latch test gone, the rest of `step` as it stands. -/
theorem step_running (s : State) (h : s.fault = none) :
    step s =
      match s.fetch with
      | .error a => .next (s.fetchFault a)
      | .ok opcode =>
        match decode opcode with
        | .ok i => exec i s.advance
        | .error _ => .next (s.advance.unknown opcode) := by
  unfold step
  split
  · next r hr => exact absurd (h.symm.trans hr) nofun
  · rfl

/-- R58: a fetch in range. -/
theorem State.fetch_ok (s : State) (h : s.pc.toNat ≤ 0xFFE) :
    s.fetch = .ok (opcodeOf (s.load s.pc.toNat) (s.load (s.pc.toNat + 1))) := by
  rcases s.fetch_cases with ⟨_, h1⟩ | ⟨h1, _⟩
  · exact h1
  · omega

/-- R58: a fetch past the end. -/
theorem State.fetch_error (s : State) (h : 0xFFE < s.pc.toNat) :
    s.fetch = .error (max s.pc.toNat 0x1000) := by
  rcases s.fetch_cases with ⟨h1, _⟩ | ⟨_, h1⟩
  · omega
  · exact h1

end Sys2Proof.Machine
end

