-- ==== Sys2Proof/Laws/System.lean ====
section
/-! SUPPORT. Runs under a schedule: how they compose, and that a latched fault stays until a new reset. -/

namespace Sys2Proof.Machine

@[simp] theorem State.runActions_nil (s : State) : s.runActions [] = .next s := rfl

@[simp] theorem State.act_env (s : State) (e : EnvEvent) : s.act (.env e) = .next (s.env e) := rfl

@[simp] theorem State.act_step (s : State) : s.act .step = step s := rfl

/-- A run whose first action has the outcome of `h` goes on from there. -/
theorem State.runActions_cons (s t : State) (a : Action) (rest : List Action) (h : s.act a = .next t) :
    s.runActions (a :: rest) = t.runActions rest := by
  simp only [State.runActions, h]

/-- A run that leads to a state passed its first action. -/
theorem State.runActions_cons_next (s t : State) (a : Action) (rest : List Action)
    (h : s.runActions (a :: rest) = .next t) :
    ∃ u, s.act a = .next u ∧ u.runActions rest = .next t := by
  cases ha : s.act a with
  | next u => exact ⟨u, rfl, by rwa [s.runActions_cons u a rest ha] at h⟩
  | fault f => simp [State.runActions, ha] at h
  | refused r => simp [State.runActions, ha] at h

/-- A run of two parts that leads to a state passed the state after the first. -/
theorem State.runActions_append_next (s t : State) (a b : List Action) :
    s.runActions (a ++ b) = .next t ↔ ∃ u, s.runActions a = .next u ∧ u.runActions b = .next t := by
  induction a generalizing s with
  | nil => exact ⟨fun h => ⟨s, rfl, h⟩, fun ⟨_, h, h'⟩ => by cases h; exact h'⟩
  | cons x a ih =>
    constructor
    · intro h
      obtain ⟨v, hv, h⟩ := s.runActions_cons_next t x (a ++ b) h
      obtain ⟨u, h1, h2⟩ := (ih v).mp h
      exact ⟨u, by rwa [s.runActions_cons v x a hv], h2⟩
    · rintro ⟨u, h1, h2⟩
      obtain ⟨v, hv, h1⟩ := s.runActions_cons_next u x a h1
      rw [List.cons_append, s.runActions_cons v x (a ++ b) hv]
      exact (ih v).mpr ⟨u, h1, h2⟩

/-- The environment never touches the latch (R39). -/
@[simp] theorem State.env_fault (s : State) (e : EnvEvent) : (s.env e).fault = s.fault := by
  cases e <;> rfl

/-- R71: a faulted machine has no step. -/
theorem step_faulted (s : State) (r : FaultRecord) (h : s.fault = some r) :
    step s = .fault (.machineFaulted r) := by
  unfold step
  split
  · next r' hr => exact congrArg _ (congrArg _ (Option.some.inj (hr.symm.trans h)))
  · next hn => exact absurd (hn.symm.trans h) nofun

/-- R208: a latched fault stays, until a new reset. -/
theorem State.act_keeps_fault (s t : State) (a : Action) (ha : a.isLaunch = false) (h : s.act a = .next t)
    (ht : Running t) : Running s := by
  cases a with
  | launch strict rom => cases ha
  | env e => cases h; exact (s.env_fault e).symm.trans ht
  | step =>
    cases hf : s.fault with
    | none => exact hf
    | some r => rw [State.act_step, step_faulted s r hf] at h; cases h

/-- R208: a run without a new reset that ends without a latched fault never had one. -/
theorem State.runActions_running (s t : State) (schedule : List Action)
    (hs : ∀ a ∈ schedule, a.isLaunch = false) (h : s.runActions schedule = .next t) (ht : Running t) :
    Running s := by
  induction schedule generalizing s with
  | nil => cases h; exact ht
  | cons a rest ih =>
    obtain ⟨u, ha, h⟩ := s.runActions_cons_next t a rest h
    exact s.act_keeps_fault u a (hs a List.mem_cons_self) ha
      (ih u (fun b hb => hs b (List.mem_cons_of_mem a hb)) h)

/-- A run of R260 from its end: it is enough that the last state has no latched fault. -/
theorem RunFrom.of_running (start t : State) (schedule : List Action) (hl : Launched start)
    (hs : ∀ a ∈ schedule, a.isLaunch = false) (h : start.runActions schedule = .next t) (ht : Running t) :
    RunFrom start schedule t where
  launched := hl
  noReset := hs
  runs := h
  noneFatal := by
    rintro part ⟨rest, rfl⟩ u hu
    obtain ⟨v, hv, h⟩ := (start.runActions_append_next t part rest).mp h
    obtain rfl : v = u := by rw [hu] at hv; cases hv; rfl
    exact v.runActions_running t rest (fun a ha => hs a (List.mem_append_right part ha)) h ht

end Sys2Proof.Machine
end

