-- ==== Sys2Proof/Machine/Listing.lean ====
section
/-! DEFINITION. Program listings (30_encoding.md R88 to R90), after their text has been read: the opcodes
an assembler emits and where the directives put bytes. The text itself (mnemonics, labels, comments) is no
behaviour of the machine. Log entry 34. -/

namespace Sys2Proof.Machine

/-- One line of a listing. -/
inductive Item where
  /-- An instruction in the spelling of R88: emitted with zero in every ignored field (R89). -/
  | op (i : Instr)
  /-- The spelling that names an ignored field, as `SHR Vx, Vy` does (R89): emitted as it stands. -/
  | exact (i : Instr)
  /-- `DB b, b, ...` (R90): bytes at consecutive addresses. -/
  | db (bytes : List Byte)
  /-- `ORG a` (R90): the address of what follows. -/
  | org (a : Nat)
  deriving DecidableEq, Repr

/-- The two bytes of an opcode, the high one first (R56, R73). -/
def opcodeBytes (w : Word) : List Byte := [highByte w, lowByte w]

/-- The conventional halt, `JP self` (R90, R260): a JUMP to its own address. -/
def haltAt (addr : Addr) : Item := .op (.jp addr)

/-- The bytes one line emits. -/
def Item.bytes : Item → List Byte
  | .op i => opcodeBytes (encode i.canonical)
  | .exact i => opcodeBytes (encode i)
  | .db bs => bs
  | .org _ => []

/-- Where the line after this one stands. -/
def Item.next (here : Nat) : Item → Nat
  | .org a => a
  | .op i => here + (Item.op i).bytes.length
  | .exact i => here + (Item.exact i).bytes.length
  | .db bs => here + bs.length

/-- The addressed bytes of a listing that starts at `here`; 0x200 unless it says otherwise (R90). -/
def assemble (items : List Item) (here : Nat := Config.romStart) : List Host.Cell :=
  match items with
  | [] => []
  | item :: rest => (item.bytes.zipIdx here).map (fun p => (p.2, p.1)) ++ assemble rest (item.next here)

end Sys2Proof.Machine
end

