-- ==== Sys2Proof/Tests/Slice0.lean ====
section
/-! SUPPORT. Tests: the well-formedness check, the decoding of written-out words, single steps from the
vectors of 95_test_vectors.md, and for every statement with hypotheses a state that meets them. -/

namespace Sys2Proof.Tests

open Sys2Proof Sys2Proof.Machine

/-- The start state of 95_test_vectors.md: after reset, with the conventional font. -/
def start : State := State.resetWith Config.defaultFont false 0

/-- A part of the state after an outcome; none where there is no next state. -/
def after {α : Type} (o : Host.Outcome State Fault Refusal) (f : State → α) : Option α :=
  match o with
  | .next t => some (f t)
  | .fault _ => none
  | .refused _ => none

/-- A part of the state after one step that runs the opcode `w`. -/
def ran {α : Type} (s : State) (w : Nat) (f : State → α) : Option α :=
  after (step (s.withFetchWord 16 w)) f

/-- `V[x]` as a plain read, to keep the tests short. -/
def reg (x : RegIdx) (s : State) : Byte := s.v[x]

/-- The start state with registers set in order. -/
def withRegs (l : List (RegIdx × Byte)) (s : State) : State :=
  l.foldl (fun s p => s.setV p.1 p.2) s

/-! ### Well-formedness (R82, R181) -/

/-- The one check: 0x9E is not a low byte of SKIP-IF-KEY-NOT-PRESSED. -/
theorem test_wf_refuses_sknp_9e : (Instr.sknp 1 0x9E).wf = false := by decide

theorem test_wf_accepts : (Instr.sknp 1 0x9F).wf = true ∧ (Instr.skp 1).wf = true := by decide

/-! ### Decoding words written out bit by bit from the opcode table (R84) and 95_test_vectors.md 2.1 -/

theorem test_decode_cls : decodeTableWord 16 0b0000000011100000 = some (.cls 0) := by decide

theorem test_decode_cls_ignored : decodeTableWord 16 0b0000101011100000 = some (.cls 0xA) := by decide

theorem test_decode_ret : decodeTableWord 16 0b0000000011101110 = some (.ret 0) := by decide

theorem test_decode_ret_ignored : decodeTableWord 16 0b0000111111101110 = some (.ret 0xF) := by decide

theorem test_decode_jp : decodeTableWord 16 0b0001101010111100 = some (.jp 0xABC) := by decide

theorem test_decode_call : decodeTableWord 16 0b0010001100000000 = some (.call 0x300) := by decide

theorem test_decode_seImm : decodeTableWord 16 0b0011001101000010 = some (.seImm 3 0x42) := by decide

theorem test_decode_sneImm : decodeTableWord 16 0b0100001101000011 = some (.sneImm 3 0x43) := by decide

theorem test_decode_seReg : decodeTableWord 16 0b0101000100101111 = some (.seReg 1 2 0xF) := by decide

theorem test_decode_ldImm : decodeTableWord 16 0b0110101000110111 = some (.ldImm 0xA 0x37) := by decide

theorem test_decode_addImm : decodeTableWord 16 0b0111000100000101 = some (.addImm 1 0x05) := by decide

theorem test_decode_ldReg : decodeTableWord 16 0b1000000100100000 = some (.ldReg 1 2) := by decide

theorem test_decode_orReg : decodeTableWord 16 0b1000000100100001 = some (.orReg 1 2) := by decide

theorem test_decode_andReg : decodeTableWord 16 0b1000000100100010 = some (.andReg 1 2) := by decide

theorem test_decode_xorReg : decodeTableWord 16 0b1000000100100011 = some (.xorReg 1 2) := by decide

theorem test_decode_addReg : decodeTableWord 16 0b1000000100100100 = some (.addReg 1 2) := by decide

theorem test_decode_sub : decodeTableWord 16 0b1000000100100101 = some (.sub 1 2) := by decide

theorem test_decode_shr : decodeTableWord 16 0b1000000100100110 = some (.shr 1 2) := by decide

theorem test_decode_subn : decodeTableWord 16 0b1000000100100111 = some (.subn 1 2) := by decide

theorem test_decode_shl : decodeTableWord 16 0b1000000100101110 = some (.shl 1 2) := by decide

theorem test_decode_sneReg : decodeTableWord 16 0b1001000100100111 = some (.sneReg 1 2 7) := by decide

theorem test_decode_ldI : decodeTableWord 16 0b1010001000101010 = some (.ldI 0x22A) := by decide

theorem test_decode_jpV0 : decodeTableWord 16 0b1011001100000000 = some (.jpV0 0x300) := by decide

theorem test_decode_rnd : decodeTableWord 16 0b1100000100001111 = some (.rnd 1 0x0F) := by decide

theorem test_decode_drw : decodeTableWord 16 0b1101000000010101 = some (.drw 0 1 5) := by decide

theorem test_decode_skp : decodeTableWord 16 0b1110000110011110 = some (.skp 1) := by decide

theorem test_decode_sknp : decodeTableWord 16 0b1110000110100001 = some (.sknp 1 0xA1) := by decide

theorem test_decode_ldVxDt : decodeTableWord 16 0b1111000100000111 = some (.ldVxDt 1) := by decide

theorem test_decode_ldVxK : decodeTableWord 16 0b1111000100001010 = some (.ldVxK 1) := by decide

theorem test_decode_ldDtVx : decodeTableWord 16 0b1111000100010101 = some (.ldDtVx 1) := by decide

theorem test_decode_ldStVx : decodeTableWord 16 0b1111000100011000 = some (.ldStVx 1) := by decide

theorem test_decode_addIVx : decodeTableWord 16 0b1111000100011110 = some (.addIVx 1) := by decide

theorem test_decode_ldFVx : decodeTableWord 16 0b1111000100101001 = some (.ldFVx 1) := by decide

theorem test_decode_ldBVx : decodeTableWord 16 0b1111000100110011 = some (.ldBVx 1) := by decide

theorem test_decode_ldMemVx : decodeTableWord 16 0b1111000101010101 = some (.ldMemVx 1) := by decide

theorem test_decode_ldVxMem : decodeTableWord 16 0b1111000101100101 = some (.ldVxMem 1) := by decide

/-- The unknown classes of 2.1. -/
theorem test_decode_unknown :
    [0x0000, 0x00E1, 0x0123, 0x8128, 0x8129, 0x812A, 0x812B, 0x812C, 0x812D, 0x812F, 0xF100, 0xF175,
      0xF185, 0xF1FF, 0xF130].all (fun w => (decodeTableWord 16 w).isNone) = true := by decide

/-- R73: an instruction is two bytes, the first the high one. -/
theorem test_decode_bytes :
    decodeBytes [0x12, 0x34, 0x60] = .ok (.jp 0x234, [0x60]) ∧ decodeBytes [0x12] = .error .truncated := by
  decide

/-! ### Single steps -/

/-- Instructions placed right after reset, with the open font, run first. -/
theorem test_runs_after_reset :
    after (step (State.reset.withFetchWord 16 0x6A37)) (fun t => (t.v[10], t.pc)) = some (0x37, 0x202)
      ∧ after (step (State.reset.withFetchWord 16 0xD125)) (fun t => (t.pc, t.fault)) = some (0x202, none)
      ∧ after (step (State.reset.withFetchWord 16 0xF155)) (fun t => (t.pc, t.fault)) = some (0x202, none)
      ∧ after (step (State.reset.withFetchWord 16 0xF133)) (fun t => (t.pc, t.fault)) = some (0x202, none) := by
  decide

/-- 2.2. -/
theorem test_unknown_reported :
    ran start 0x8128 id = some { start.withFetchWord 16 0x8128 with pc := 0x202 }
      ∧ stepOutput start = some (.unknown 0x0000 0x200) := by decide

/-- 2.2. -/
theorem test_unknown_strict :
    ran { start with strictUnknown := true } 0x0000 (fun t => (t.pc, t.fault))
      = some (0x202, some (.unknownOpcode 0x0000 0x200)) := by decide

/-- E1. -/
theorem test_jp :
    ran start 0x1ABC (·.pc) = some 0xABC ∧ ran start 0x1FFF (·.pc) = some 0xFFF := by decide

/-- 2.3. -/
theorem test_call :
    ran start 0x2300 (fun t => (t.stack[0], t.sp, t.pc)) = some (0x202, 1, 0x300)
      ∧ ran { start with sp := 15 } 0x2300 (fun t => (t.stack[15], t.sp, t.pc)) = some (0x202, 16, 0x300) := by decide

/-- 2.3, R202. -/
theorem test_call_overflow :
    ran { start with sp := 16 } 0x2300 (fun t => (t.pc, t.sp, t.stack, t.fault))
      = some (0x202, 16, start.stack, some (.stackOverflow 0x2300 0x200)) := by decide

/-- 2.3: the entry stays, stale. -/
theorem test_ret :
    ran { start with sp := 1, stack := start.stack.set 0 0x456 } 0x00EE
      (fun t => (t.sp, t.pc, t.stack[0])) = some (0, 0x456, 0x456) := by decide

/-- 2.3, R203. -/
theorem test_ret_underflow :
    ran start 0x00EE (fun t => (t.pc, t.sp, t.fault))
      = some (0x202, 0, some (.stackUnderflow 0x00EE 0x200)) := by decide

/-- 2.3: `V[3]` plays no part; the sum is exact. -/
theorem test_jpV0 :
    ran (withRegs [(0, 0x10), (3, 0x55)] start) 0xB300 (·.pc) = some 0x310
      ∧ ran (withRegs [(0, 0xFF)] start) 0xBFFF (·.pc) = some 0x10FE := by decide

/-- 2.3. -/
theorem test_skip_imm :
    ran (withRegs [(3, 0x42)] start) 0x3342 (·.pc) = some 0x204
      ∧ ran (withRegs [(3, 0x42)] start) 0x3343 (·.pc) = some 0x202
      ∧ ran (withRegs [(3, 0x42)] start) 0x4342 (·.pc) = some 0x202
      ∧ ran (withRegs [(3, 0x42)] start) 0x4343 (·.pc) = some 0x204 := by decide

/-- 2.3; `sp` unchanged (C7). -/
theorem test_skip_reg :
    ran (withRegs [(1, 7), (2, 7)] start) 0x5120 (·.pc) = some 0x204
      ∧ ran (withRegs [(1, 7), (2, 8)] start) 0x5120 (·.pc) = some 0x202
      ∧ ran (withRegs [(1, 7), (2, 8)] start) 0x9120 (·.pc) = some 0x204
      ∧ ran (withRegs [(1, 7), (2, 7)] start) 0x9120 (fun t => (t.pc, t.sp)) = some (0x202, 0) := by decide

/-- 2.3. -/
theorem test_skip_past_the_end :
    ran { start with pc := 0xFFE } 0x3000 (·.pc) = some 0x1002 := by decide

/-- E2, 2.4. -/
theorem test_ldImm :
    ran start 0x6A37 (reg 0xA) = some 0x37 ∧ ran (withRegs [(0xF, 1)] start) 0x6F00 (reg 0xF) = some 0 := by decide

/-- 2.4: no carry flag. -/
theorem test_addImm :
    ran (withRegs [(1, 0xFF), (0xF, 1)] start) 0x7101 (fun t => (t.v[1], t.v[15])) = some (0, 1)
      ∧ ran (withRegs [(0xF, 0xFF)] start) 0x7F02 (reg 0xF) = some 1 := by decide

/-- 2.4: the effect of RANDOM-AND for the drawn byte 0xA5. -/
theorem test_rnd_masks :
    (start.randomAnd 1 0x0F 0xA5).v[1] = 0x05 ∧ (start.randomAnd 1 0xFF 0xA5).v[1] = 0xA5
      ∧ (start.randomAnd 1 0x00 0xA5).v[1] = 0x00 := by decide

/-- R122: one draw. -/
theorem test_rnd_counts :
    ran start 0xC1F0 (fun t => (t.draws, t.pc)) = some (1, 0x202) := by decide

/-- 2.5: VF is not touched. -/
theorem test_moves_logic :
    ran (withRegs [(1, 0x11), (2, 0x22)] start) 0x8120 (fun t => (t.v[1], t.v[15])) = some (0x22, 0)
      ∧ ran (withRegs [(1, 0xF0), (2, 0x0F), (15, 1)] start) 0x8121 (fun t => (t.v[1], t.v[15])) = some (0xFF, 1)
      ∧ ran (withRegs [(1, 0xF0), (2, 0x3C)] start) 0x8122 (fun t => (t.v[1], t.v[15])) = some (0x30, 0)
      ∧ ran (withRegs [(1, 0xF0), (2, 0x3C)] start) 0x8123 (fun t => (t.v[1], t.v[15])) = some (0xCC, 0) := by decide

/-- E3, 2.5. -/
theorem test_addReg :
    ran (withRegs [(1, 0xFF), (2, 1)] start) 0x8124 (fun t => (t.v[1], t.v[15])) = some (0, 1)
      ∧ ran (withRegs [(1, 0x80), (2, 0x7F)] start) 0x8124 (fun t => (t.v[1], t.v[15])) = some (0xFF, 0)
      ∧ ran (withRegs [(1, 0x80)] start) 0x8114 (fun t => (t.v[1], t.v[15])) = some (0, 1) := by decide

/-- 2.5: the flag overwrites the result; the old VF is the operand. -/
theorem test_addReg_vf :
    ran (withRegs [(15, 0x10), (1, 0x20)] start) 0x8F14 (fun t => (t.v[15], t.v[15])) = some (0, 0)
      ∧ ran (withRegs [(1, 0xFF), (15, 2)] start) 0x81F4 (fun t => (t.v[1], t.v[15])) = some (1, 1) := by decide

/-- E4, 2.5: equal is not strictly greater. -/
theorem test_sub :
    ran (withRegs [(1, 1), (2, 2)] start) 0x8125 (fun t => (t.v[1], t.v[15])) = some (0xFF, 0)
      ∧ ran (withRegs [(1, 5), (2, 5), (15, 1)] start) 0x8125 (fun t => (t.v[1], t.v[15])) = some (0, 0)
      ∧ ran (withRegs [(1, 5), (2, 3)] start) 0x8125 (fun t => (t.v[1], t.v[15])) = some (2, 1) := by decide

/-- 2.5. -/
theorem test_sub_vf :
    ran (withRegs [(15, 5), (1, 3)] start) 0x8F15 (fun t => (t.v[15], t.v[15])) = some (1, 1)
      ∧ ran (withRegs [(1, 5), (15, 3)] start) 0x81F5 (fun t => (t.v[1], t.v[15])) = some (2, 1) := by decide

/-- 2.5: `y` ignored. -/
theorem test_shr :
    ran (withRegs [(1, 4), (2, 0xFF)] start) 0x8126 (fun t => (t.v[1], t.v[15])) = some (2, 0)
      ∧ ran (withRegs [(1, 5)] start) 0x8106 (fun t => (t.v[1], t.v[15])) = some (2, 1)
      ∧ ran (withRegs [(15, 2)] start) 0x8F06 (fun t => (t.v[15], t.v[15])) = some (0, 0) := by decide

/-- 2.5. -/
theorem test_subn :
    ran (withRegs [(1, 2), (2, 1)] start) 0x8127 (fun t => (t.v[1], t.v[15])) = some (0xFF, 0)
      ∧ ran (withRegs [(1, 1), (2, 3)] start) 0x8127 (fun t => (t.v[1], t.v[15])) = some (2, 1)
      ∧ ran (withRegs [(1, 3), (2, 3), (15, 1)] start) 0x8127 (fun t => (t.v[1], t.v[15])) = some (0, 0) := by decide

/-- 2.5. -/
theorem test_shl :
    ran (withRegs [(1, 0x81)] start) 0x810E (fun t => (t.v[1], t.v[15])) = some (2, 1)
      ∧ ran (withRegs [(1, 4), (2, 0xFF)] start) 0x812E (fun t => (t.v[1], t.v[15])) = some (8, 0)
      ∧ ran (withRegs [(15, 0x40)] start) 0x8F0E (fun t => (t.v[15], t.v[15])) = some (0, 0) := by decide

theorem test_ldI :
    ran start 0xAFFF (·.i) = some 0xFFF := by decide

/-- 2.6. -/
theorem test_addIVx :
    ran (withRegs [(1, 2)] { start with i := 0xFFE }) 0xF11E (fun t => (t.i, t.v[15], t.fault)) = some (0x1000, 0, none)
      ∧ ran (withRegs [(1, 1)] { start with i := 0xFFFF }) 0xF11E (·.i) = some 0 := by decide

/-- 2.6: no mask. -/
theorem test_ldFVx :
    ran (withRegs [(1, 0xA)] start) 0xF129 (·.i) = some 0x32
      ∧ ran (withRegs [(1, 0xFF)] start) 0xF129 (·.i) = some 0x4FB := by decide

/-- 2.6. -/
theorem test_ldBVx :
    ran (withRegs [(1, 0xFE)] { start with i := 0x300 }) 0xF133
      (fun t => (t.load 0x300, t.load 0x301, t.load 0x302)) = some (2, 5, 4)
      ∧ ran (withRegs [(1, 0xFF)] { start with i := 0xFFD }) 0xF133 (fun t => (t.load 0xFFF, t.fault)) = some (5, none) := by decide

/-- 2.6. -/
theorem test_ldBVx_range :
    ran (withRegs [(1, 9)] { start with i := 0xFFE }) 0xF133 (fun t => (t.pc, t.load 0xFFE, t.fault))
        = some (0x202, 0, some (.memoryOutOfRange 0x1000 (some 0xF133) 0x200))
      ∧ ran { start with i := 0xFFFF } 0xF133 (·.fault)
        = some (some (.memoryOutOfRange 0xFFFF (some 0xF133) 0x200)) := by decide

/-- E7, 2.6: the bound is inclusive. -/
theorem test_ldMemVx :
    ran (withRegs [(0, 0xAA), (1, 0xBB)] { start with i := 0x300 }) 0xF055
      (fun t => (t.load 0x300, t.load 0x301, t.i)) = some (0xAA, 0, 0x300)
      ∧ ran (withRegs [(0, 0xAA), (1, 0xBB)] { start with i := 0x300 }) 0xF155
      (fun t => (t.load 0x300, t.load 0x301, t.i)) = some (0xAA, 0xBB, 0x300) := by decide

/-- 2.6. -/
theorem test_ldMemVx_range :
    ran (withRegs [(0xF, 0x10)] { start with i := 0xFF0 }) 0xFF55 (fun t => (t.load 0xFFF, t.fault)) = some (0x10, none)
      ∧ ran { start with i := 0xFF1 } 0xFF55 (·.fault)
        = some (some (.memoryOutOfRange 0x1000 (some 0xFF55) 0x200)) := by decide

/-- 2.6: from the font. -/
theorem test_ldVxMem :
    ran start 0xF265 (fun t => (t.v[0], t.v[1], t.v[2], t.v[3], t.i)) = some (0xF0, 0x90, 0x90, 0, 0)
      ∧ ran start 0xFF65 (reg 0xF) = some 0xF0 := by decide

/-- 2.6. -/
theorem test_ldVxMem_range :
    ran { start with i := 0x1000 } 0xF065 (·.fault)
      = some (some (.memoryOutOfRange 0x1000 (some 0xF065) 0x200)) := by decide

/-- The display with the named cells (column, row) set. -/
def pixels (l : List (Fin 64 × Fin 32)) : Display :=
  l.foldl (fun d p => d.flip p.1 p.2) Display.blank

/-- The start state with one sprite byte at 0x300, `I` there, and the coordinates in `V[0]`, `V[1]`. -/
def sprite (b x y : Byte) : State := (withRegs [(0, x), (1, y)] { start with i := 0x300 }).store 0x300 b

/-- 2.7. -/
theorem test_cls :
    ran { start with display := pixels [(3, 4)], screenUpdated := false, v := start.v.set 15 7 } 0x00E0
      (fun t => (t.display, t.screenUpdated, t.v[15])) = some (Display.blank, true, 7) := by decide

/-- 2.7. -/
theorem test_drw_wraps :
    ran (sprite 0xFF 60 0) 0xD011 (fun t => (t.display, t.v[15]))
      = some (pixels [(60, 0), (61, 0), (62, 0), (63, 0), (0, 0), (1, 0), (2, 0), (3, 0)], 0)
      ∧ ran (sprite 0x80 200 100) 0xD011 (·.display) = some (pixels [(8, 4)]) := by decide

/-- 2.7: a partial collision; a row out of range. -/
theorem test_drw_collides :
    ran { sprite 0xF0 0 0 with display := pixels [(3, 0), (4, 0)] } 0xD011 (fun t => (t.display, t.v[15]))
      = some (pixels [(0, 0), (1, 0), (2, 0), (4, 0)], 1)
      ∧ ran { start with i := 0xFF2, screenUpdated := false } 0xD01F (fun t => (t.screenUpdated, t.fault))
        = some (false, some (.memoryOutOfRange 0x1000 (some 0xD01F) 0x200)) := by decide

/-- The start state with the named keys pressed and `V[2]` set. -/
def keys (l : List (Fin 16)) (b : Byte) : State :=
  withRegs [(2, b)] { start with keypad := Vector.ofFn fun k => l.contains k }

/-- 2.8. -/
theorem test_skp :
    ran (keys [0xA] 0xA) 0xE29E (·.pc) = some 0x204 ∧ ran (keys [] 0xA) 0xE29E (·.pc) = some 0x202
      ∧ ran (keys [] 0x10) 0xE29E (fun t => (t.pc, t.fault))
        = some (0x202, some (.keypadIndexOutOfRange 0x10 0xE29E 0x200)) := by decide

/-- 2.8. -/
theorem test_sknp :
    ran (keys [] 0xA) 0xE2A1 (·.pc) = some 0x204 ∧ ran (keys [0xA] 0xA) 0xE2A1 (·.pc) = some 0x202
      ∧ ran (keys [] 0xA) 0xE200 (·.pc) = some 0x204
      ∧ ran (keys [] 0xFF) 0xE2A1 (·.fault) = some (some (.keypadIndexOutOfRange 0xFF 0xE2A1 0x200)) := by decide

/-- 2.8. -/
theorem test_ldVxK :
    ran (keys [3, 7] 0) 0xF50A (fun t => (t.v[5], t.pc)) = some (3, 0x202)
      ∧ ran (keys [0] 0) 0xF50A (fun t => (t.v[5], t.pc)) = some (0, 0x202) := by decide

/-- 2.8. -/
theorem test_ldVxK_waits :
    ran (withRegs [(5, 0x99)] start) 0xF50A (fun t => (t.v[5], t.pc)) = some (0x99, 0x200) := by decide

/-- 2.8. -/
theorem test_timers :
    ran { start with dt := 0x3C } 0xF107 (fun t => (t.v[1], t.dt)) = some (0x3C, 0x3C)
      ∧ ran (withRegs [(1, 0x3C)] start) 0xF115 (·.dt) = some 0x3C
      ∧ ran (withRegs [(1, 5)] start) 0xF118 (·.st) = some 5 := by decide

/-- 2.8. -/
theorem test_tick :
    ({ start with dt := 2 } : State).tick.dt = 1 ∧ ({ start with st := 1 } : State).tick.st = 0 ∧ start.tick = start := by decide

/-- 2.9: an odd `pc` is legal; the last word of memory. -/
theorem test_fetch :
    ran { start with pc := 0x201 } 0x6007 (fun t => (t.v[0], t.pc)) = some (7, 0x203)
      ∧ ran { start with pc := 0xFFE } 0x6007 (fun t => (t.v[0], t.pc)) = some (7, 0x1000) := by decide

/-- 2.9. -/
theorem test_fetch_range :
    after (step { start with pc := 0xFFF }) id
      = some { start with pc := 0xFFF, fault := some (.memoryOutOfRange 0x1000 none 0xFFF) } := by decide

/-- 2.9. -/
theorem test_faulted :
    step { start with fault := some (.stackUnderflow 0x00EE 0x200) }
      = .fault (.machineFaulted (.stackUnderflow 0x00EE 0x200)) := rfl

/-- R89, R90: canonical opcodes, a two-operand spelling, data and an origin. -/
theorem test_listing :
    assemble [.op (.sknp 2 0x00), .exact (.shr 8 1), .org 0x300, .db [0xC0], haltAt 0x301]
      = [(0x200, 0xE2), (0x201, 0xA1), (0x202, 0x88), (0x203, 0x16), (0x300, 0xC0), (0x301, 0x13),
        (0x302, 0x01)] := by decide

/-! ### For every statement with hypotheses, states and operands that meet them -/

/-- `start` with the opcode `w` placed where it fetches. -/
def placed (w : Nat) : State := start.withFetchWord 16 w

/-- The outcome has a next state, the one `after … id` names. -/
theorem next_of_after {o : Host.Outcome State Fault Refusal} {t : State} (h : after o id = some t) :
    o = .next t := by
  cases o with
  | next u => exact congrArg _ (Option.some.inj h)
  | fault _ => cases h
  | refused _ => cases h

theorem test_witness_DecodeOfEncode :
    (Instr.sknp 0xF 0xFF).wf = true ∧ (Instr.drw 0xF 0xF 0xF).wf = true ∧ (Instr.cls 0xF).wf = true := by
  decide

theorem test_witness_EncodeOfDecode :
    (decode 0xE19F).toOption = some (.sknp 1 0x9F) ∧ (decode 0x512F).toOption = some (.seReg 1 2 0xF) := by
  decide

theorem test_witness_UnknownOpcodes :
    (decode 0x0000).toOption = none ∧ (decode 0x800F).toOption = none ∧ (decode 0xF0FF).toOption = none
      ∧ upperNibble 0x0000 = 0x0 ∧ upperNibble 0x800F = 0x8 ∧ upperNibble 0xF0FF = 0xF := by decide

theorem test_witness_OperationIdentity :
    upperNibble 0x0AE0 = upperNibble 0x0FE0 ∧ fieldByte 0x0AE0 = fieldByte 0x0FE0 := by decide

theorem test_witness_IgnoredBits :
    ({ start with sp := 16 } : State).sp ≠ 0 ∧ (withRegs [(3, 15)] start).v[(3 : RegIdx)].toNat ≤ 15 := by
  decide

theorem test_witness_StepRuns :
    let s := { start with pc := 0xFFE }.withFetchWord 16 0x6007
    s.fault = none ∧ s.pc.toNat ≤ 0xFFE
      ∧ (decode (s.load s.pc.toNat ++ s.load (s.pc.toNat + 1))).toOption = some (.ldImm 0 7) := by decide

theorem test_witness_FetchPastTheEnd :
    let s := { start with pc := 0xFFF }
    s.fault = none ∧ 0xFFE < s.pc.toNat ∧ max s.pc.toNat 0x1000 = 0x1000 := by decide

theorem test_witness_UnknownOpcodeIsReported :
    let s := { start with pc := 0xFFE }
    s.fault = none ∧ s.pc.toNat ≤ 0xFFE ∧ s.strictUnknown = false
      ∧ decode (s.load s.pc.toNat ++ s.load (s.pc.toNat + 1)) = .error (.unknownOpcode 0) := ⟨rfl, by decide, rfl, rfl⟩

theorem test_witness_UnknownOpcodeIsFatal :
    let s := { start with strictUnknown := true }
    s.fault = none ∧ s.pc.toNat ≤ 0xFFE ∧ s.strictUnknown = true
      ∧ decode (s.load s.pc.toNat ++ s.load (s.pc.toNat + 1)) = .error (.unknownOpcode 0) := ⟨rfl, by decide, rfl, rfl⟩

theorem test_witness_MachineSteps :
    ({ start with fault := some (.stackUnderflow 0x00EE 0x200) } : State).fault
      = some (.stackUnderflow 0x00EE 0x200) ∧ start.fault = none := by decide

/-- Both clauses: a step that goes on and a step that ends fatally. -/
theorem test_witness_StepReturns :
    (decode 0x00E0).toOption = some (.cls 0)
      ∧ after (step (placed 0x00E0)) (·.fault) = some none
      ∧ stepOutput (placed 0x00E0) = some (.ok 0x00E0)
      ∧ (decode 0x00EE).toOption = some (.ret 0)
      ∧ after (step (placed 0x00EE)) (·.fault) = some (some (.stackUnderflow 0x00EE 0x200))
      ∧ stepOutput (placed 0x00EE) = some (.fatal (.stackUnderflow 0x00EE 0x200)) := by decide

theorem test_witness_PlacedInstruction :
    let s := { start with pc := 0xFFE }
    s.fault = none ∧ s.pc.toNat ≤ 0xFFE ∧ Memory.wf s.font s.mem ∧ (Instr.sknp 0 0).wf = true := by decide

/-- `sp` at 0, 15 and 16. -/
theorem test_witness_Call :
    start.sp.val = (0 : Fin 16).val ∧ ({ start with sp := 15 } : State).sp.val = (15 : Fin 16).val
      ∧ ({ start with sp := 16 } : State).sp = 16 := by decide

/-- `sp` at 1, 16 and 0. -/
theorem test_witness_Return :
    ({ start with sp := 1 } : State).sp.val = (0 : Fin 16).val + 1
      ∧ ({ start with sp := 16 } : State).sp.val = (15 : Fin 16).val + 1 ∧ start.sp = 0 := by decide

theorem test_witness_CallThenReturn :
    ∃ t, ({ start with sp := 15 } : State).sp.val < 16
      ∧ exec (.call 0x300) { start with sp := 15 } = .next t := ⟨_, by decide, rfl⟩

/-- `x` is not VF, in the statements of ADD-REG, SUB, SUB-REVERSED and the shifts. -/
theorem test_witness_NotVf : (0xE : RegIdx) ≠ vf ∧ (0 : RegIdx) ≠ vf := by decide

/-- The last base that is in range and the first that is not. -/
theorem test_witness_StoreBcd :
    let s := { start with i := 0xFFD }
    let u := { start with i := 0xFFE }
    s.i.toNat + 2 ≤ 0xFFF ∧ Memory.wf s.font s.mem ∧ u.i.toNat + 2 > 0xFFF := by decide

/-- Also for LOAD-REGISTERS: `I + x` at 0xFFF and at 0x1000. -/
theorem test_witness_StoreRegisters :
    let s := { start with i := 0xFF0 }
    let u := { start with i := 0xFF1 }
    s.i.toNat + (0xF : RegIdx).val ≤ 0xFFF ∧ Memory.wf s.font s.mem ∧ (0 : RegIdx) ≤ 0xF
      ∧ u.i.toNat + (0xF : RegIdx).val > 0xFFF := by decide

theorem test_witness_StoredRegistersLoadBack :
    ∃ t, Memory.wf start.font start.mem ∧ ({ start with i := 0xFF0 } : State).i.toNat + (0xF : RegIdx).val ≤ 0xFFF
      ∧ exec (.ldMemVx 0xF) { start with i := 0xFF0 } = .next t := ⟨_, by decide, by decide, rfl⟩

/-- No row, the last rows in memory, and one row too many. -/
theorem test_witness_Draw :
    (0 : Nibble).toNat = 0
      ∧ ({ start with i := 0xFF1 } : State).i.toNat + (0xF : Nibble).toNat - 1 ≤ 0xFFF
      ∧ 0 < (0xF : Nibble).toNat
      ∧ ({ start with i := 0xFF2 } : State).i.toNat + (0xF : Nibble).toNat - 1 > 0xFFF := by decide

/-- A blank display and a sprite with a set bit: 0x80 at (0, 0). -/
theorem test_witness_DrawingTwice :
    ∃ t, (0 : RegIdx) ≠ vf ∧ (1 : RegIdx) ≠ vf
      ∧ (sprite 0x80 0 0).i.toNat + (1 : Nibble).toNat - 1 ≤ 0xFFF
      ∧ exec (.drw 0 1 1) (sprite 0x80 0 0) = .next t
      ∧ (sprite 0x80 0 0).display = Display.blank
      ∧ spriteBit (sprite 0x80 0 0) (sprite 0x80 0 0).v[0].toNat (sprite 0x80 0 0).v[1].toNat 1 0 0 = true :=
  ⟨_, by decide, by decide, by decide, rfl, by decide, by decide⟩

/-- The last key number and the first that names no key. -/
theorem test_witness_KeySkips :
    (0xA1 : Byte) ≠ 0x9E ∧ (keys [15] 15).v[2].toNat = (15 : Fin 16).val
      ∧ (keys [] 0).v[2].toNat = (0 : Fin 16).val ∧ (keys [] 16).v[2].toNat > 15 := by decide

/-- Key 15 alone, keys 0 and 15, and no key. -/
theorem test_witness_WaitForKey :
    ((keys [15] 0).keypad[(15 : Fin 16)] = true ∧ ∀ j : Fin 16, j < 15 → (keys [15] 0).keypad[j] = false)
      ∧ ((keys [0, 15] 0).keypad[(0 : Fin 16)] = true
        ∧ ∀ j : Fin 16, j < 0 → (keys [0, 15] 0).keypad[j] = false)
      ∧ ∀ j : Fin 16, start.keypad[j] = false := by decide

theorem test_witness_WaitingStep :
    let s := placed 0xF50A
    s.fault = none ∧ s.pc.toNat ≤ 0xFFE
      ∧ (decode (s.load s.pc.toNat ++ s.load (s.pc.toNat + 1))).toOption = some (.ldVxK 5)
      ∧ ∀ k : Fin 16, s.keypad[k] = false := by decide

/-- A fatal fault in the execute phase and one in the fetch. -/
theorem test_witness_FatalFaults :
    (start.fault = none ∧ start.pc.toNat ≤ 0xFFE
      ∧ after (step (placed 0x00EE)) (·.fault) = some (some (.stackUnderflow 0x00EE 0x200)))
    ∧ 0xFFE < ({ start with pc := 0xFFF } : State).pc.toNat
      ∧ after (step { start with pc := 0xFFF }) (·.fault)
        = some (some (.memoryOutOfRange 0x1000 none 0xFFF)) := by decide

/-- Each of the four kinds an instruction can raise. -/
theorem test_witness_EachFault :
    start.fault = none
      ∧ after (exec (.call 0) { start with sp := 16 }) (·.fault) = some (some (.stackOverflow 0x2000 0x1FE))
      ∧ after (exec (.ret 0) start) (·.fault) = some (some (.stackUnderflow 0x00EE 0x1FE))
      ∧ after (exec (.ldBVx 0) { start with i := 0xFFE }) (·.fault)
        = some (some (.memoryOutOfRange 0x1000 (some 0xF033) 0x1FE))
      ∧ after (exec (.skp 2) (keys [] 16)) (·.fault)
        = some (some (.keypadIndexOutOfRange 16 0xE29E 0x1FE)) := by decide

/-- A flag write, a register that is no destination, and VF under an instruction that writes no flag. -/
theorem test_witness_RegistersChange :
    ∃ t, exec (.addReg 1 2) start = .next t ∧ t.fault = none ∧ writesFlag (.addReg 1 2) = true
      ∧ isDestination 3 (.addReg 1 2) = false ∧ (3 : RegIdx) ≠ vf
      ∧ isDestination vf (.ldImm 1 0) = false ∧ writesFlag (.ldImm 1 0) = false :=
  ⟨_, rfl, rfl, rfl, by decide, by decide, by decide, rfl⟩

/-- JUMP meets the premise of every clause. -/
theorem test_witness_EachField :
    (∃ t, exec (.jp 0x300) start = .next t) ∧ (∀ x, Instr.jp 0x300 ≠ .ldBVx x ∧ Instr.jp 0x300 ≠ .ldMemVx x)
      ∧ (∀ x y n, Instr.jp 0x300 ≠ .cls x ∧ Instr.jp 0x300 ≠ .drw x y n)
      ∧ (∀ addr x, Instr.jp 0x300 ≠ .call addr ∧ Instr.jp 0x300 ≠ .ret x)
      ∧ (∀ addr x, Instr.jp 0x300 ≠ .ldI addr ∧ Instr.jp 0x300 ≠ .addIVx x ∧ Instr.jp 0x300 ≠ .ldFVx x)
      ∧ (∀ x, Instr.jp 0x300 ≠ .ldDtVx x ∧ Instr.jp 0x300 ≠ .ldStVx x)
      ∧ ∀ x nn, Instr.jp 0x300 ≠ .rnd x nn :=
  ⟨⟨_, rfl⟩, by simp, by simp, by simp, by simp, by simp, by simp⟩

/-- Also for the statement on the sound timer and the dirty flag. -/
theorem test_witness_CoreNeverWrites :
    ∃ t, step (placed 0x00E0) = .next t ∧ (placed 0x00E0).screenUpdated = true :=
  ⟨_, next_of_after (by decide : after (step (placed 0x00E0)) id = some
      { placed 0x00E0 with pc := 0x202 }), by decide⟩

/-- Two states that differ in a stale entry. -/
theorem test_witness_StaleStack :
    ∃ t, SameButStale (placed 0x00E0) { placed 0x00E0 with stack := start.stack.set 3 0x456 }
      ∧ step (placed 0x00E0) = .next t :=
  ⟨_, ⟨by decide, fun k h => absurd h (Nat.not_lt_zero k.val)⟩, next_of_after (by decide :
    after (step (placed 0x00E0)) id = some { placed 0x00E0 with pc := 0x202 })⟩

/-- The invariant, with a live return address at its bound, `pc` at its bound, and a listed byte. -/
theorem test_witness_Inv :
    Inv { placed 0x00E0 with pc := 0x10FE, sp := 1, stack := start.stack.set 0 0x1000 } where
  pc_le := by decide
  live_le := by decide
  mem_wf := by decide

theorem test_witness_StepKeepsTheInvariant : ∃ t, Inv (placed 0x00E0) ∧ step (placed 0x00E0) = .next t :=
  ⟨_, ⟨by decide, by decide, by decide⟩, next_of_after (by decide :
    after (step (placed 0x00E0)) id = some { placed 0x00E0 with pc := 0x202 })⟩

/-- A ROM, a step and a tick. -/
theorem test_witness_Reachable :
    Reachable ({ State.launch Config.defaultFont false 0 [0x00, 0xE0] with pc := 0x202 } : State).tick :=
  .env _ .tick (.step _ _ (.launch Config.defaultFont false 0 [0x00, 0xE0]) (next_of_after (by decide)))

theorem test_witness_CanonicalMemory :
    Memory.wf Config.defaultFont [(0x000, 0x01), (0x300, 0x7F)]
      ∧ ∀ a, Memory.read Config.defaultFont [(0x000, 0x01), (0x300, 0x7F)] a
        = Memory.read Config.defaultFont [(0x000, 0x01), (0x300, 0x7F)] a := ⟨by decide, fun _ => rfl⟩

/-- 2.3: JUMP 0x200 at 0x200. -/
theorem test_witness_AtRest : AtRest (placed 0x1200) := ⟨by decide, 0x200, by rfl, by decide⟩

/-- JUMP 0x200 at 0x200, and a step between a tick and a presenter read. -/
theorem test_witness_AtRestSchedule :
    AtRest (placed 0x1200) ∧ ∀ a ∈ [Action.env .tick, .step, .env .present], a.isLaunch = false :=
  ⟨test_witness_AtRest, by decide⟩

/-- The ROM `00 E0 12 02`: CLEAR-SCREEN, then a JUMP to itself at 0x202. -/
def restRom : State := State.launch Config.defaultFont false 0 [0x00, 0xE0, 0x12, 0x02]

/-- The state after its first step, with a key pressed before and a tick after. -/
def restState : State :=
  ({ restRom.setKeys (Vector.replicate 16 true) with pc := 0x202 } : State)

/-- R260, observation point 1: one step, with environment transitions before and after it. -/
theorem test_witness_AfterSteps :
    AfterSteps 1 restRom [.env (.keys (Vector.replicate 16 true)), .step, .env .tick] restState :=
  { RunFrom.of_running restRom restState _ ⟨_, _, _, _, rfl⟩ (by decide) (next_of_after (by decide)) (by decide)
    with steps := by decide }

/-- A state about to run CLEAR-SCREEN is not at rest: that is no JUMP. -/
theorem not_atRest_of_clearScreen (s : State) (h : s.fetch = .ok 0x00E0) : ¬ AtRest s := by
  rintro ⟨-, addr, hj, -⟩
  have hw : (0x00E0 : Word) = packNNN 0x1 addr := Except.ok.inj (h.symm.trans hj)
  exact absurd ((congrArg upperNibble hw).trans (upperNibble_packNNN 0x1 addr)) (by decide)

/-- R260, observation point 2: the first state at rest of that run; the two states before are not at rest. -/
theorem test_witness_EndsAtRest :
    EndsAtRest restRom [.env (.keys (Vector.replicate 16 true)), .step] restState :=
  { RunFrom.of_running restRom restState _ ⟨_, _, _, _, rfl⟩ (by decide) (next_of_after (by decide)) (by decide)
    with
    rest := ⟨by decide, 0x202, by rfl, by decide⟩
    first := by
      intro part hp hne u hu
      have hm := (List.mem_inits _ _).mpr hp
      simp only [List.inits, List.map, List.mem_cons, List.not_mem_nil, or_false] at hm
      obtain rfl | rfl | rfl := hm
      · cases hu; exact not_atRest_of_clearScreen _ rfl
      · cases hu; exact not_atRest_of_clearScreen _ rfl
      · exact absurd rfl hne }

theorem test_witness_AfterStepsSilent : Launched restRom ∧ ∃ t, Sys2Proof.core.run 1 restRom = .next t ∧ Running t :=
  ⟨⟨_, _, _, _, rfl⟩, _, rfl, by decide⟩

/-- The first and the last byte of the font, and the first address above it. -/
theorem test_witness_ResetLeaves :
    0 < 80 ∧ 79 < 80 ∧ 80 ≤ 80 ∧ start.load 0 = 0xF0 ∧ start.load 79 = 0x80 ∧ start.load 80 = 0 := by decide

theorem test_witness_RomLoad :
    Memory.wf start.font start.mem ∧ (start.loadRom [0x12, 0x00]).load 0x200 = 0x12
      ∧ (start.loadRom [0x12, 0x00]).load 0x201 = 0x00 ∧ Config.romMax = 3584 := by decide

/-- The first cell, the last, and the one after the first row. -/
theorem test_witness_Environment :
    start.screenUpdated = true ∧ start.present.screenUpdated = false
      ∧ (0 : Fin 2048).val = (0 : Fin 32).val * 64 + (0 : Fin 64).val
      ∧ (2047 : Fin 2048).val = (31 : Fin 32).val * 64 + (63 : Fin 64).val
      ∧ (64 : Fin 2048).val = (1 : Fin 32).val * 64 + (0 : Fin 64).val := by decide

end Sys2Proof.Tests
end

section
/-! PROOF. What one step can do: `step` by its three ways to a next state, and `exec` by the one group of
fields the instruction writes (10_state.md R39). -/

namespace Sys2Proof.Machine

/-! ### The step -/

/-- R70, R71: the three ways to a next state, for a machine whose latch is free: a fetch fault, an unknown
opcode after the advance, the instruction of a known opcode after the advance. -/
theorem step_next_iff (s t : State) :
    step s = .next t ↔ s.fault = none ∧
      ((∃ a, s.fetch = .error a ∧ t = s.fetchFault a)
      ∨ (∃ opcode e, s.fetch = .ok opcode ∧ decode opcode = .error e ∧ t = s.advance.unknown opcode)
      ∨ ∃ opcode i, s.fetch = .ok opcode ∧ decode opcode = .ok i ∧ exec i s.advance = .next t) := by
  cases hs : s.fault with
  | some r => simp [step_faulted s r hs]
  | none =>
    rw [step_running s hs]
    cases hf : s.fetch with
    | error a => simp [eq_comm]
    | ok opcode => cases hd : decode opcode <;> simp [hd, eq_comm]

/-- R58: a fetch that gives an opcode lies in memory. -/
theorem State.pc_le_of_fetch_ok (s : State) (opcode : Word) (h : s.fetch = .ok opcode) :
    s.pc.toNat ≤ 0xFFE := by
  obtain ⟨hpc, -⟩ | ⟨-, he⟩ := s.fetch_cases
  · exact hpc
  · exact absurd (h.symm.trans he) nofun

/-! ### The instruction -/

/-- What an instruction can do to a state, by the fields it writes: one constructor for each group of
fields that change together, with the instructions that may write them (R39, the core's column). -/
inductive Effect (i : Instr) (s : State) : State → Prop where
  /-- A fatal fault: the latch and nothing else (R208). -/
  | fault (r : FaultRecord) : Effect i s (s.raise r)
  /-- Registers only. -/
  | registers (v : Vector Byte 16) : Effect i s { s with v := v }
  /-- A jump to an address within the bound of R40. -/
  | jump (w : Word) (hw : w.toNat ≤ 0x10FE) : Effect i s (s.setPc w)
  /-- A skip, taken or not (R100). -/
  | skip (taken : Bool) : Effect i s (s.skipIf taken)
  /-- Back to the instruction that executes (R182). -/
  | wait : Effect i s (s.setPc (s.pc - 2))
  /-- A return address pushed, and a jump (R102). -/
  | call (addr : Addr) (t : State) (hi : i = .call addr) (ht : s.push s.pc = some t) :
      Effect i s (t.setPc (zextAddr addr))
  /-- A return address popped into `pc` (R103). -/
  | ret (x : RegIdx) (target : Word) (t : State) (hi : i = .ret x) (ht : s.pop = some (target, t)) :
      Effect i s (t.setPc target)
  /-- The address register (R150, R151, R152). -/
  | index (w : Word) (addr : Addr) (x : RegIdx) (hi : i = .ldI addr ∨ i = .addIVx x ∨ i = .ldFVx x) :
      Effect i s (s.setI w)
  /-- The delay timer (R184). -/
  | delay (x : RegIdx) (b : Byte) (hi : i = .ldDtVx x) : Effect i s (s.setDt b)
  /-- The sound timer (R185). -/
  | sound (x : RegIdx) (b : Byte) (hi : i = .ldStVx x) : Effect i s (s.setSt b)
  /-- A draw taken, and registers (R122). -/
  | draw (x : RegIdx) (nn : Byte) (v : Vector Byte 16) (hi : i = .rnd x nn) :
      Effect i s { s.nextDraw with v := v }
  /-- A block of memory (R153, R154). -/
  | store (base : Nat) (bytes : List Byte) (x : RegIdx) (hi : i = .ldBVx x ∨ i = .ldMemVx x) :
      Effect i s (s.storeBytes base bytes)
  /-- The display with the dirty flag, and registers (R170, R171). -/
  | paint (d : Display) (v : Vector Byte 16) (x y : RegIdx) (n : Nibble) (hi : i = .cls x ∨ i = .drw x y n) :
      Effect i s { s.setDisplay d with v := v }

/-- An access of a block faults or has its effect. -/
theorem Effect.withRange {i : Instr} {s t : State} (h : Effect i s t) (j : Instr) (base n : Nat) :
    Effect i s (s.withRange j base n t) := by
  obtain ⟨-, heq⟩ | ⟨a, -, heq⟩ := s.withRange_cases j base n t
  · rw [heq]; exact h
  · rw [heq]; exact .fault _

/-- A key skip faults or skips. -/
theorem Effect.keySkip (i j : Instr) (s : State) (x : RegIdx) (pressed : Bool) :
    Effect i s (s.keySkip j x pressed) := by
  obtain ⟨k, -, heq⟩ | ⟨-, heq⟩ := s.keySkip_cases j x pressed
  · exact heq ▸ .skip _
  · exact heq ▸ .fault _

/-- R76: the zero extension of an `addr` field keeps its value. -/
theorem zextAddr_toNat (addr : Addr) : (zextAddr addr).toNat = addr.toNat :=
  BitVec.toNat_setWidth_of_le (by decide)

/-- R76: the zero extension of a byte keeps its value. -/
theorem zextByte_toNat (b : Byte) : (zextByte b).toNat = b.toNat :=
  BitVec.toNat_setWidth_of_le (by decide)

/-- R101, R102: a jump to an `addr` field stays within the bound of R40. -/
theorem zextAddr_toNat_le (addr : Addr) : (zextAddr addr).toNat ≤ 0x10FE := by
  have := addr.isLt
  rw [zextAddr_toNat]
  omega

/-- R104: the sum of an `addr` field and a byte does not wrap. -/
theorem zextAddr_add_zextByte_toNat (addr : Addr) (b : Byte) :
    (zextAddr addr + zextByte b).toNat = addr.toNat + b.toNat := by
  have := addr.isLt
  have := b.isLt
  rw [BitVec.toNat_add, zextAddr_toNat, zextByte_toNat]
  omega

/-- R104: the highest target, 0xFFF + 0xFF, is the bound of R40. -/
theorem zextAddr_add_zextByte_toNat_le (addr : Addr) (b : Byte) :
    (zextAddr addr + zextByte b).toNat ≤ 0x10FE := by
  have := addr.isLt
  have := b.isLt
  rw [zextAddr_add_zextByte_toNat]
  omega

/-- Every next state of an instruction is one of its effects. -/
theorem exec_effect (i : Instr) (s t : State) (h : exec i s = .next t) : Effect i s t := by
  cases i with
  | ldImm | addImm | ldReg | orReg | andReg | xorReg | addReg | sub | shr | subn | shl | ldVxDt =>
    cases h; exact .registers _
  | seImm | sneImm | seReg | sneReg => cases h; exact .skip _
  | skp | sknp => cases h; exact .keySkip ..
  | jp addr => cases h; exact .jump _ (zextAddr_toNat_le addr)
  | jpV0 addr => cases h; exact .jump _ (zextAddr_add_zextByte_toNat_le addr (s.getV 0))
  | call addr =>
    simp only [exec, execCall] at h
    split at h
    · next u hu => cases h; exact .call addr u rfl hu
    · cases h; exact .fault _
  | ret x =>
    simp only [exec, execRet] at h
    split at h
    · next target u hu => cases h; exact .ret x target u rfl hu
    · cases h; exact .fault _
  | ldVxK =>
    simp only [exec, execLdVxK] at h
    split at h
    · cases h; exact .registers _
    · cases h; exact .wait
  | ldI addr => cases h; exact .index _ addr 0 (by simp)
  | addIVx x | ldFVx x => cases h; exact .index _ 0 x (by simp)
  | ldDtVx x => cases h; exact .delay x _ rfl
  | ldStVx x => cases h; exact .sound x _ rfl
  | rnd x nn => cases h; exact .draw x nn _ rfl
  | ldBVx x | ldMemVx x => cases h; exact (Effect.store _ _ x (by simp)).withRange ..
  | ldVxMem => cases h; exact (Effect.registers _).withRange ..
  | cls x => cases h; exact .paint _ s.v x 0 0 (by simp)
  | drw x y n => cases h; exact (Effect.paint _ _ x y n (by simp)).withRange ..

end Sys2Proof.Machine
end

section
/-! PROOF. Who writes which field (10_state.md R39). -/

namespace Sys2Proof.Machine

/-- Settles O44: each effect writes its own group of fields, and names the instructions that have it. -/
theorem eachFieldHasOnlyItsWriters : Obligations.EachFieldHasOnlyItsWriters := by
  intro i s t h
  cases exec_effect i s t h with
  | fault | registers | jump | skip | wait => simp
  | call addr u hi hu =>
    obtain ⟨hs, rfl⟩ := s.push_some u s.pc hu
    simp [hi]
  | ret x target u hi hu =>
    obtain ⟨hs, -, rfl⟩ := s.pop_some u target hu
    simp [hi]
  | index w addr x hi => obtain rfl | rfl | rfl := hi <;> simp
  | delay x b hi | sound x b hi => simp [hi]
  | draw x nn v hi => simp [hi]
  | store base bytes x hi => obtain rfl | rfl := hi <;> simp
  | paint d v x y n hi => obtain rfl | rfl := hi <;> simp

/-- R39, R33: what no step does, over the fields it concerns. -/
structure KeepsInputs (s t : State) : Prop where
  keypad : t.keypad = s.keypad
  font : t.font = s.font
  strict : t.strictUnknown = s.strictUnknown
  dirty : s.screenUpdated = true → t.screenUpdated = true

theorem Effect.keepsInputs {i : Instr} {s t : State} (h : Effect i s t) : KeepsInputs s t := by
  cases h with
  | call addr u hi hu =>
    obtain ⟨hs, rfl⟩ := s.push_some u s.pc hu
    exact ⟨rfl, rfl, rfl, id⟩
  | ret x target u hi hu =>
    obtain ⟨hs, -, rfl⟩ := s.pop_some u target hu
    exact ⟨rfl, rfl, rfl, id⟩
  | skip | store => constructor <;> simp
  | paint => exact ⟨rfl, rfl, rfl, fun _ => rfl⟩
  | fault | registers | jump | wait | index | delay | sound | draw => exact ⟨rfl, rfl, rfl, id⟩

/-- Settles O45: neither a fault, nor the advance, nor an effect of an instruction does any of it. -/
theorem coreNeverWritesKeypadConfigOrClearsDirty :
    Obligations.CoreNeverWritesKeypadConfigOrClearsDirty := by
  intro s t h
  suffices hk : KeepsInputs s t from ⟨hk.keypad, hk.font, hk.strict, hk.dirty⟩
  obtain ⟨-, ⟨a, -, rfl⟩ | ⟨opcode, e, -, -, rfl⟩ | ⟨opcode, i, -, -, hx⟩⟩ := (step_next_iff s t).mp h
  · exact ⟨rfl, rfl, rfl, id⟩
  · obtain ⟨-, heq⟩ | ⟨-, heq⟩ := s.advance.unknown_cases opcode
    all_goals rw [heq]; exact ⟨rfl, rfl, rfl, id⟩
  · obtain ⟨hk, hf, hs, hd⟩ := (exec_effect i s.advance t hx).keepsInputs
    exact ⟨hk, hf, hs, hd⟩

end Sys2Proof.Machine
end

section
/-! PROOF. The invariant of 10_state.md R40 across a step. -/

namespace Sys2Proof.Machine

theorem Inv.raise {s : State} (h : Inv s) (r : FaultRecord) : Inv (s.raise r) :=
  ⟨h.pc_le, h.live_le, h.mem_wf⟩

theorem Inv.setPc {s : State} (h : Inv s) {w : Word} (hw : w.toNat ≤ 0x10FE) : Inv (s.setPc w) :=
  ⟨hw, h.live_le, h.mem_wf⟩

/-- The advance after a fetch in memory does not wrap. -/
theorem State.advance_pc_toNat (s : State) (h : s.pc.toNat ≤ 0xFFE) :
    s.advance.pc.toNat = s.pc.toNat + 2 := by
  rw [State.advance_pc]
  bv_omega

theorem Inv.advance {s : State} (h : Inv s) (hpc : s.pc.toNat ≤ 0xFFE) : Inv s.advance :=
  h.setPc (by rw [← State.advance_pc, s.advance_pc_toNat hpc]; omega)

theorem Inv.unknown {s : State} (h : Inv s) (opcode : Word) : Inv (s.unknown opcode) := by
  obtain ⟨-, heq⟩ | ⟨-, heq⟩ := s.unknown_cases opcode <;> rw [heq]
  · exact h
  · exact h.raise _

/-- A push of an address in bound: the entries that were live are untouched, the new one is in bound. -/
theorem Inv.push {s t : State} {w : Word} (h : Inv s) (hw : w.toNat ≤ 0x1000) (ht : s.push w = some t) :
    Inv t := by
  obtain ⟨hs, rfl⟩ := s.push_some t w ht
  refine ⟨h.pc_le, fun k hk => ?_, h.mem_wf⟩
  obtain heq | hne := eq_or_ne s.sp.val k.val
  · simpa [heq] using hw
  · have hk : k.val < s.sp.val + 1 := hk
    simpa [Vector.getElem_set_ne, hne] using h.live_le k (by omega)

/-- A pop: the entry taken was live, so it is in bound; those that stay live were. -/
theorem Inv.pop {s t : State} {w : Word} (h : Inv s) (ht : s.pop = some (w, t)) :
    w.toNat ≤ 0x1000 ∧ Inv t := by
  obtain ⟨hs, rfl, rfl⟩ := s.pop_some t w ht
  have hsp := s.sp.isLt
  refine ⟨h.live_le ⟨s.sp.val - 1, by omega⟩ (by simp only; omega), h.pc_le, fun k hk => ?_, h.mem_wf⟩
  have hk : k.val < s.sp.val - 1 := hk
  exact h.live_le k (by omega)

/-- R40: an instruction keeps the invariant from an advanced `pc`, which lies in 2..0x1000. -/
theorem Effect.inv {i : Instr} {s t : State} (h : Effect i s t) (hs : Inv s)
    (hlo : 2 ≤ s.pc.toNat) (hhi : s.pc.toNat ≤ 0x1000) : Inv t := by
  cases h with
  | fault r => exact hs.raise r
  | jump w hw => exact hs.setPc hw
  | skip taken =>
    obtain ⟨-, heq⟩ | ⟨-, heq⟩ := s.skipIf_cases taken <;> rw [heq]
    · exact hs.setPc (by bv_omega)
    · exact hs
  | wait => exact hs.setPc (by bv_omega)
  | call addr u hi hu => exact (hs.push hhi hu).setPc (zextAddr_toNat_le addr)
  | ret x target u hi hu =>
    obtain ⟨hw, hu⟩ := hs.pop hu
    exact hu.setPc (by omega)
  | store base bytes =>
    have hmem := s.storeBytes_wf base bytes hs.mem_wf
    exact ⟨by simpa using hs.pc_le, by simpa using hs.live_le, by simpa using hmem⟩
  | registers | index | delay | sound | draw | paint => exact ⟨hs.pc_le, hs.live_le, hs.mem_wf⟩

/-- Settles O48: a fetch in range advances `pc` into 2..0x1000, where every effect keeps the invariant; a
fault changes none of its fields. -/
theorem stepKeepsTheInvariant : Obligations.StepKeepsTheInvariant := by
  intro s t hs h
  obtain ⟨-, ⟨a, -, rfl⟩ | ⟨opcode, e, hf, -, rfl⟩ | ⟨opcode, i, hf, -, hx⟩⟩ := (step_next_iff s t).mp h
  · exact hs.raise _
  · exact (hs.advance (s.pc_le_of_fetch_ok opcode hf)).unknown opcode
  · have hpc := s.pc_le_of_fetch_ok opcode hf
    have hadv := s.advance_pc_toNat hpc
    exact (exec_effect i s.advance t hx).inv (hs.advance hpc) (by omega) (by omega)

end Sys2Proof.Machine
end

section
/-! PROOF. The sound timer and the dirty flag are written and never read (10_state.md R29, section 7): every
operation of the core commutes with setting them. -/

namespace Sys2Proof.Machine

/-- The same state with the sound timer and the dirty flag at given values. -/
def State.withUnseen (s : State) (st : Byte) (dirty : Bool) : State :=
  { s with st := st, screenUpdated := dirty }

section Commutes

variable (s : State) (st : Byte) (dirty : Bool)

@[simp] theorem State.getV_withUnseen (x : RegIdx) : (s.withUnseen st dirty).getV x = s.getV x := rfl

@[simp] theorem State.fetch_withUnseen : (s.withUnseen st dirty).fetch = s.fetch := rfl

@[simp] theorem State.leastKey_withUnseen : (s.withUnseen st dirty).leastKey = s.leastKey := rfl

@[simp] theorem State.xorSprite_withUnseen (cx cy n : Nat) :
    (s.withUnseen st dirty).xorSprite cx cy n = s.xorSprite cx cy n := rfl

@[simp] theorem State.dataAddress_withUnseen (k : Nat) :
    (s.withUnseen st dirty).dataAddress k = s.dataAddress k := rfl

@[simp] theorem State.regsThrough_withUnseen (x : RegIdx) :
    (s.withUnseen st dirty).regsThrough x = s.regsThrough x := rfl

@[simp] theorem State.skipIf_withUnseen (taken : Bool) :
    (s.withUnseen st dirty).skipIf taken = (s.skipIf taken).withUnseen st dirty := by
  cases taken <;> rfl

theorem State.unknown_withUnseen (opcode : Word) :
    (s.withUnseen st dirty).unknown opcode = (s.unknown opcode).withUnseen st dirty := by
  rw [State.unknown, State.unknown, apply_ite (fun u : State => u.withUnseen st dirty)]
  rfl

@[simp] theorem State.keySkip_withUnseen (i : Instr) (x : RegIdx) (pressed : Bool) :
    (s.withUnseen st dirty).keySkip i x pressed = (s.keySkip i x pressed).withUnseen st dirty := by
  simp only [State.keySkip, State.getV_withUnseen]
  cases keyOf (s.getV x) with
  | none => rfl
  | some k => exact s.skipIf_withUnseen st dirty (s.key k == pressed)

/-- A push fails or succeeds in both states alike. -/
@[simp] theorem State.push_withUnseen (w : Word) :
    (s.withUnseen st dirty).push w = (s.push w).map fun u => u.withUnseen st dirty := by
  rw [State.push, State.push, apply_dite (Option.map _)]
  rfl

/-- A pop fails or succeeds in both states alike, and takes the same entry. -/
@[simp] theorem State.pop_withUnseen :
    (s.withUnseen st dirty).pop = s.pop.map fun p => (p.1, p.2.withUnseen st dirty) := by
  rw [State.pop, State.pop, apply_dite (Option.map _)]
  rfl

@[simp] theorem State.storeBytes_withUnseen (a : Nat) (bytes : List Byte) :
    (s.withUnseen st dirty).storeBytes a bytes = (s.storeBytes a bytes).withUnseen st dirty := by
  induction bytes generalizing s a with
  | nil => rfl
  | cons b bytes ih => exact ih (s.store a b) (a + 1)

/-- An access of a block faults in both states alike; its effect may itself write the two fields. -/
theorem State.withRange_withUnseen (i : Instr) (base n : Nat) {effect effect' : State} {st₁ : Byte}
    {dirty₁ : Bool} (he : effect' = effect.withUnseen st₁ dirty₁) :
    ∃ st' dirty', (s.withUnseen st dirty).withRange i base n effect' =
      (s.withRange i base n effect).withUnseen st' dirty' := by
  subst he
  simp only [State.withRange]
  cases lowestBad base n with
  | none => exact ⟨st₁, dirty₁, rfl⟩
  | some a => exact ⟨st, dirty, rfl⟩

/-- R29, R33: an instruction has the same outcome whatever the two fields hold, up to the two fields. -/
theorem State.exec_withUnseen (i : Instr) (t : State) (h : exec i s = .next t) :
    ∃ st' dirty', exec i (s.withUnseen st dirty) = .next (t.withUnseen st' dirty') := by
  cases i with
  | jp | jpV0 | ldImm | addImm | ldReg | orReg | andReg | xorReg | addReg | sub | shr | subn | shl | ldI
  | rnd | ldVxDt | ldDtVx | addIVx | ldFVx => cases h; exact ⟨st, dirty, rfl⟩
  | ldStVx x => cases h; exact ⟨s.getV x, dirty, rfl⟩
  | cls => cases h; exact ⟨st, true, rfl⟩
  | seImm | sneImm | seReg | sneReg | skp | sknp =>
    cases h
    exact ⟨st, dirty, by
      simp only [exec, execSeImm, execSneImm, execSeReg, execSneReg, execSkp, execSknp, getV_withUnseen,
        skipIf_withUnseen, keySkip_withUnseen]⟩
  | ldBVx | ldMemVx | ldVxMem | drw =>
    cases h
    simp only [exec, execLdBVx, execLdMemVx, execLdVxMem, execDrw, Host.Outcome.next.injEq,
      dataAddress_withUnseen, regsThrough_withUnseen, getV_withUnseen, xorSprite_withUnseen,
      storeBytes_withUnseen]
    exact s.withRange_withUnseen st dirty _ _ _ rfl
  | ldVxK =>
    simp only [exec, execLdVxK, leastKey_withUnseen] at h ⊢
    cases hk : s.leastKey with
    | none | some k => rw [hk] at h; cases h; exact ⟨st, dirty, rfl⟩
  | call =>
    simp only [exec, execCall] at h ⊢
    rw [show (s.withUnseen st dirty).pc = s.pc from rfl, push_withUnseen]
    cases hp : s.push s.pc with
    | none | some u => rw [hp] at h; cases h; exact ⟨st, dirty, rfl⟩
  | ret =>
    simp only [exec, execRet, pop_withUnseen] at h ⊢
    cases hp : s.pop with
    | none | some p => rw [hp] at h; cases h; exact ⟨st, dirty, rfl⟩

end Commutes

/-- Settles O46: the fetch, the advance and both faults are blind to the two fields, and so is every
instruction. -/
theorem soundTimerAndDirtyFlagAreUnobservable : Obligations.SoundTimerAndDirtyFlagAreUnobservable := by
  intro s t st dirty h
  suffices hu : ∃ st' dirty', step (s.withUnseen st dirty) = .next (t.withUnseen st' dirty') by
    obtain ⟨st', dirty', hu⟩ := hu
    exact ⟨_, hu, rfl⟩
  have hfetch := s.fetch_withUnseen st dirty
  obtain ⟨hs, ⟨a, hf, rfl⟩ | ⟨opcode, e, hf, hd, rfl⟩ | ⟨opcode, i, hf, hd, hx⟩⟩ := (step_next_iff s t).mp h
  · exact ⟨st, dirty, (step_next_iff ..).mpr ⟨hs, .inl ⟨a, hfetch.trans hf, rfl⟩⟩⟩
  · have heq := s.advance.unknown_withUnseen st dirty opcode
    exact ⟨st, dirty, (step_next_iff ..).mpr ⟨hs, .inr (.inl ⟨opcode, e, hfetch.trans hf, hd, heq.symm⟩)⟩⟩
  · obtain ⟨st', dirty', hx'⟩ := s.advance.exec_withUnseen st dirty i t hx
    exact ⟨st', dirty', (step_next_iff ..).mpr ⟨hs, .inr (.inr ⟨opcode, i, hfetch.trans hf, hd, hx'⟩)⟩⟩

end Sys2Proof.Machine
end

section
/-! PROOF. A canonical memory is determined by what it reads as (log entry 8). -/

namespace Sys2Proof.Machine

/-- In a sorted memory the lookup finds what is listed. -/
theorem Memory.lookup_eq_some_iff {m : Memory} (h : m.Pairwise (fun c d => c.1 < d.1)) (a : Nat) (b : Byte) :
    Memory.lookup m a = some b ↔ (a, b) ∈ m := by
  induction m with
  | nil => simp [Memory.lookup]
  | cons c m ih =>
    obtain ⟨k, w⟩ := c
    obtain ⟨hlt, hm⟩ := List.pairwise_cons.mp h
    simp only [Memory.lookup, List.mem_cons, Prod.mk.injEq]
    split
    · next hk =>
      have hnot : (a, b) ∉ m := fun hmem => by have := hlt _ hmem; simp only at this; omega
      simp [hk, hnot, eq_comm]
    · next hk => simp [ih hm, Ne.symm hk]

/-- A canonical memory lists exactly the bytes that differ from the reset contents. -/
theorem Memory.mem_iff_read {font : Vector Byte 80} {m : Memory} (h : Memory.wf font m) (a : Nat) (b : Byte) :
    (a, b) ∈ m ↔ Memory.read font m a = b ∧ b ≠ Memory.initial font a := by
  rw [← Memory.lookup_eq_some_iff h.1]
  cases hl : Memory.lookup m a with
  | none => simp [Memory.read, hl, eq_comm]
  | some v =>
    have hv := (h.2 _ ((Memory.lookup_eq_some_iff h.1 a v).mp hl)).2
    simp only [Memory.read, hl, Option.getD_some, Option.some.injEq]
    exact ⟨fun heq => ⟨heq, heq ▸ hv⟩, And.left⟩

/-- Settles O52: the reads say which cells are listed, and the order of a sorted list is fixed. -/
theorem canonicalMemoryIsUnique : Obligations.CanonicalMemoryIsUnique := by
  intro font m m' h h' hread
  have hmem : ∀ c, c ∈ m ↔ c ∈ m' := fun c => by
    rw [Memory.mem_iff_read h c.1 c.2, Memory.mem_iff_read h' c.1 c.2, hread]
  have nodup : ∀ {l : Memory}, l.Pairwise (fun c d => c.1 < d.1) → l.Nodup :=
    List.Pairwise.imp fun hlt heq => by simp [heq] at hlt
  have hperm : m.Perm m' := (List.perm_ext_iff_of_nodup (nodup h.1) (nodup h'.1)).mpr hmem
  exact hperm.eq_of_pairwise (fun c d _ _ hcd hdc => by omega) h.1 h'.1

end Sys2Proof.Machine
end

section
/-! PROOF. The state after reset (10_state.md R38). -/

namespace Sys2Proof.Machine

/-- R38, R51: memory after reset is the reset contents. -/
theorem State.load_resetWith (font : Vector Byte 80) (strict : Bool) (draws a : Nat) :
    (State.resetWith font strict draws).load a = Memory.initial font a := rfl

/-- Settles O54: the font and zeros in memory, and every other field as `resetWith` sets it. -/
theorem resetLeavesTheStatedValues : Obligations.ResetLeavesTheStatedValues := by
  intro font strict draws s
  have hfont : ∀ a, (h : a < 80) → s.load a = font[a] := fun a h => by
    rw [State.load_resetWith, Memory.initial, dif_pos h]
  have hzero : ∀ a, 80 ≤ a → s.load a = 0 := fun a h => by
    rw [State.load_resetWith, Memory.initial, dif_neg (Nat.not_lt.mpr h)]
  have hv : ∀ k : RegIdx, s.v[k] = 0 := fun k => Vector.getElem_replicate ..
  have hstack : ∀ k : Fin 16, s.stack[k] = 0 := fun k => Vector.getElem_replicate ..
  have hkeys : ∀ k : Fin 16, s.keypad[k] = false := fun k => Vector.getElem_replicate ..
  exact ⟨hfont, hzero, hv, rfl, rfl, rfl, rfl, hstack, rfl, hkeys, Display.cell_blank, rfl, rfl⟩

end Sys2Proof.Machine
end

section
/-! PROOF. The round trip of an instruction through its opcode (30_encoding.md R77 to R84): the fields of a
packed word are what was packed, so each decode rule selects the row the encoder wrote. -/

namespace Sys2Proof

/-- R82: every low byte but 0x9E selects SKIP-IF-KEY-NOT-PRESSED. -/
theorem decodeKey_of_fieldByte_ne (w : Word) (h : fieldByte w ≠ 0x9E) :
    decodeKey w = .ok (.sknp (fieldX w) (fieldByte w)) := by
  unfold decodeKey
  split
  · next hb => exact absurd hb h
  · rfl

/-- R77, R84: decoding the opcode of a well-formed instruction gives the instruction back; the cases are
the decode rules 2 and 4, then 1, 3, 5 and 6. -/
theorem decode_encode (i : Instr) (h : i.wf = true) : decode (encode i) = .ok i := by
  cases i with
  | jp | call | ldI | jpV0 | seImm | sneImm | ldImm | addImm | rnd | seReg | sneReg | drw =>
    simp [encode, decode]
  | cls | ret => simp [encode, decode, decodeZero]
  | ldReg | orReg | andReg | xorReg | addReg | sub | shr | subn | shl =>
    simp [encode, decode, decodeAlu]
  | skp => simp [encode, decode, decodeKey]
  | sknp x nn =>
    have hb : fieldByte (encode (.sknp x nn)) ≠ 0x9E := by simpa [encode, Instr.wf] using h
    have hkey : decode (encode (.sknp x nn)) = decodeKey (encode (.sknp x nn)) := by
      simp [encode, decode]
    rw [hkey, decodeKey_of_fieldByte_ne _ hb]
    simp [encode]
  | ldVxDt | ldVxK | ldDtVx | ldStVx | addIVx | ldFVx | ldBVx | ldMemVx | ldVxMem =>
    simp [encode, decode, decodeMisc]

end Sys2Proof
end

section
/-! PROOF. An instruction placed at `pc` is fetched and runs (20_memory.md R56, R62; 30_encoding.md R70). -/

namespace Sys2Proof.Machine

@[simp] theorem State.placeOpcode_pc (s : State) (opcode : Word) : (s.placeOpcode opcode).pc = s.pc :=
  s.storeBytes_pc ..

@[simp] theorem State.placeOpcode_fault (s : State) (opcode : Word) :
    (s.placeOpcode opcode).fault = s.fault :=
  s.storeBytes_fault ..

/-- Placing the 16 bits of an opcode as a number places the opcode. -/
theorem State.withFetchWord_toNat (s : State) (opcode : Word) :
    s.withFetchWord 16 opcode.toNat = s.placeOpcode opcode := by
  rw [State.withFetchWord, Nat.mod_eq_of_lt opcode.isLt, BitVec.ofNat_toNat, BitVec.setWidth_eq]

/-- R56, R62: the fetch sees the two bytes just stored, in the order they were stored in. -/
theorem State.fetch_placeOpcode (s : State) (opcode : Word) (hpc : s.pc.toNat ≤ 0xFFE)
    (hm : Memory.wf s.font s.mem) : (s.placeOpcode opcode).fetch = .ok opcode := by
  have hfit : s.pc.toNat + [highByte opcode, lowByte opcode].length ≤ Config.memSize :=
    Nat.add_le_add_right hpc 2
  have hhi : (s.placeOpcode opcode).load s.pc.toNat = highByte opcode :=
    s.load_storeBytes_at _ 0 _ (by simp) hm hfit
  have hlo : (s.placeOpcode opcode).load (s.pc.toNat + 1) = lowByte opcode :=
    s.load_storeBytes_at _ 1 _ (by simp) hm hfit
  rw [State.fetch_ok _ (by rwa [placeOpcode_pc]), placeOpcode_pc, hhi, hlo, opcodeOf_bytes]

/-- R70: a running machine executes the instruction its fetched opcode decodes to. -/
theorem step_of_fetch_decode {s : State} {opcode : Word} {i : Instr} (hs : s.fault = none)
    (hf : s.fetch = .ok opcode) (hd : decode opcode = .ok i) : step s = exec i s.advance := by
  simp only [step_running s hs, hf, hd]

/-- Settles O12: the fetch reads the encoding back from memory, and it decodes to the instruction. -/
theorem placedInstructionRunsNext : Obligations.PlacedInstructionRunsNext := by
  intro s i hs hpc hm hi
  rw [s.withFetchWord_toNat (encode i),
    step_of_fetch_decode ((s.placeOpcode_fault _).trans hs) (s.fetch_placeOpcode _ hpc hm)
      (decode_encode i hi),
    State.advance, State.placeOpcode_pc, State.setPc]

end Sys2Proof.Machine
end

section
/-! PROOF. The decoder and the encoder (30_encoding.md R74 to R85): the round trip of an opcode through the
instruction it selects, the unknown opcodes, and which bits name the operation. -/

namespace Sys2Proof

/-- Settles O2: by the cases of `decode_encode`, the decode rule of each row. -/
theorem decodeOfEncodeIsTheInstruction : Obligations.DecodeOfEncodeIsTheInstruction :=
  decode_encode

/-- Settles O1: the decoder computes on each written-out word. -/
theorem specWordsDecodeToTheirInstructions : Obligations.SpecWordsDecodeToTheirInstructions := by
  unfold Obligations.SpecWordsDecodeToTheirInstructions
  and_intros <;> rfl

/-! ### From the opcode to the instruction and back -/

/-- R74, format `NNN`: a word is packed from its `addr` and the value of its upper nibble. -/
theorem packNNN_of_fields {w : Word} {op : Nibble} (hop : upperNibble w = op) :
    packNNN op (fieldAddr w) = w :=
  hop ▸ packNNN_fields w

/-- R74, formats `XNN`, `X` and `NONE`: a word is packed from its `x` and the values of its upper nibble
and its low byte. -/
theorem packXNN_of_fields {w : Word} {op : Nibble} {nn : Byte} (hop : upperNibble w = op)
    (hnn : fieldByte w = nn) : packXNN op (fieldX w) nn = w :=
  hop ▸ hnn ▸ packXNN_fields w

/-- R74, formats `XY` and `XYN`: a word is packed from its `x` and `y` and the values of its upper and
its low nibble. -/
theorem packXYN_of_fields {w : Word} {op n : Nibble} (hop : upperNibble w = op) (hn : fieldN w = n) :
    packXYN op (fieldX w) (fieldY w) n = w :=
  hop ▸ hn ▸ packXYN_fields w

/-- What O3 asks of an instruction the decoder answers for an opcode: it is well-formed, and the opcode is
its encoding. -/
def Answers (w : Word) (i : Instr) : Prop := i.wf = true ∧ encode i = w

/-- Decode rule 1 (R78). -/
theorem answers_of_decodeZero {w : Word} {i : Instr} (hop : upperNibble w = 0x0) (h : decodeZero w = .ok i) :
    Answers w i := by
  unfold decodeZero at h
  split at h
  case h_3 => cases h
  all_goals next hb => cases h; exact ⟨rfl, packXNN_of_fields hop hb⟩

/-- Decode rule 3 (R80). -/
theorem answers_of_decodeAlu {w : Word} {i : Instr} (hop : upperNibble w = 0x8) (h : decodeAlu w = .ok i) :
    Answers w i := by
  unfold decodeAlu at h
  split at h
  case h_10 => cases h
  all_goals next hn => cases h; exact ⟨rfl, packXYN_of_fields hop hn⟩

/-- Decode rule 5 (R82): its second row is reached only where the low byte is not 0x9E, so its answer is
well-formed. -/
theorem answers_of_decodeKey {w : Word} {i : Instr} (hop : upperNibble w = 0xE) (h : decodeKey w = .ok i) :
    Answers w i := by
  unfold decodeKey at h
  split at h
  · next hb => cases h; exact ⟨rfl, packXNN_of_fields hop hb⟩
  · next hb => cases h; exact ⟨bne_iff_ne.mpr hb, packXNN_of_fields hop rfl⟩

/-- Decode rule 6 (R83). -/
theorem answers_of_decodeMisc {w : Word} {i : Instr} (hop : upperNibble w = 0xF) (h : decodeMisc w = .ok i) :
    Answers w i := by
  unfold decodeMisc at h
  split at h
  case h_10 => cases h
  all_goals next hb => cases h; exact ⟨rfl, packXNN_of_fields hop hb⟩

/-- Settles O3: by the upper nibble; in each row the format's fields, those left open and those the row
fixes, make up the word. -/
theorem encodeOfDecodeIsTheWord : Obligations.EncodeOfDecodeIsTheWord := by
  intro w i h
  unfold decode at h
  split at h
  case h_1 hop => exact answers_of_decodeZero hop h
  case h_9 hop => exact answers_of_decodeAlu hop h
  case h_15 hop => exact answers_of_decodeKey hop h
  case h_16 hop => exact answers_of_decodeMisc hop h
  case h_2 hop | h_3 hop | h_11 hop | h_12 hop => cases h; exact ⟨rfl, packNNN_of_fields hop⟩
  case h_6 hop | h_10 hop | h_14 hop => cases h; exact ⟨rfl, packXYN_of_fields hop rfl⟩
  case h_4 hop | h_5 hop | h_7 hop | h_8 hop | h_13 hop => cases h; exact ⟨rfl, packXNN_of_fields hop rfl⟩
  case h_17 => cases h

/-! ### The unknown opcodes -/

/-- R78: every low byte outside the two rows. -/
theorem decodeZero_unknown_iff (w : Word) :
    decodeZero w = .error (.unknownOpcode w) ↔ fieldByte w ∉ [0xE0#8, 0xEE#8] := by
  unfold decodeZero
  split <;> simp_all

/-- R80: the numbers outside the nine rows, which are the seven listed ones. -/
theorem decodeAlu_unknown_iff (w : Word) :
    decodeAlu w = .error (.unknownOpcode w) ↔
      fieldN w ∈ [0x8#4, 0x9#4, 0xA#4, 0xB#4, 0xC#4, 0xD#4, 0xF#4] := by
  have hrest : ∀ n : Nibble, n ∈ [0x8#4, 0x9#4, 0xA#4, 0xB#4, 0xC#4, 0xD#4, 0xF#4] ↔
      n ∉ [0x0#4, 0x1#4, 0x2#4, 0x3#4, 0x4#4, 0x5#4, 0x6#4, 0x7#4, 0xE#4] := by decide
  rw [hrest]
  unfold decodeAlu
  split <;> simp_all

/-- R82: no 0xE opcode is unknown. -/
theorem decodeKey_ne_error (w : Word) (e : DecodeError) : decodeKey w ≠ .error e := by
  unfold decodeKey
  split <;> nofun

/-- R83: every low byte outside the closed table. -/
theorem decodeMisc_unknown_iff (w : Word) :
    decodeMisc w = .error (.unknownOpcode w) ↔
      fieldByte w ∉ [0x07#8, 0x0A#8, 0x15#8, 0x18#8, 0x1E#8, 0x29#8, 0x33#8, 0x55#8, 0x65#8] := by
  unfold decodeMisc
  split <;> simp_all

/-- The sixteen values of an opcode field; the decoder has a rule for each. -/
theorem nibble_mem (n : Nibble) :
    n ∈ [0x0#4, 0x1#4, 0x2#4, 0x3#4, 0x4#4, 0x5#4, 0x6#4, 0x7#4, 0x8#4, 0x9#4, 0xA#4, 0xB#4, 0xC#4, 0xD#4,
      0xE#4, 0xF#4] := by
  revert n
  decide

/-- Settles O4: by the upper nibble; the three rules with a rest class, then the rules that answer every
opcode. -/
theorem unknownOpcodesAreExactlyTheThreeClasses : Obligations.UnknownOpcodesAreExactlyTheThreeClasses := by
  intro w
  rw [← decodeZero_unknown_iff, ← decodeAlu_unknown_iff, ← decodeMisc_unknown_iff]
  unfold decode
  split
  case h_1 hop | h_9 hop | h_16 hop => simp [hop]
  case h_15 hop => simp [hop, decodeKey_ne_error]
  case h_17 =>
    have hmem := nibble_mem (upperNibble w)
    simp_all
  all_goals next hop => simp [hop]

/-! ### The identity of the operation -/

/-- R75: the low nibble is part of the low byte. -/
theorem fieldN_eq_setWidth_fieldByte (w : Word) : fieldN w = (fieldByte w).setWidth 4 := by
  apply BitVec.eq_of_getLsbD_eq
  intro i hi
  simp [fieldN, fieldByte, hi, show i < 8 by omega]

/-- Settles O5: after the upper nibble, each decode rule looks at the low byte or its low nibble alone. -/
theorem operationIdentityIgnoresFieldX : Obligations.OperationIdentityIgnoresFieldX := by
  intro w w' hop hb
  have hn : fieldN w = fieldN w' := by
    rw [fieldN_eq_setWidth_fieldByte, fieldN_eq_setWidth_fieldByte, hb]
  unfold decode
  rw [hop]
  split
  case h_1 | h_9 | h_15 | h_16 =>
    simp only [decodeZero, decodeAlu, decodeKey, decodeMisc, hb, hn]
    split <;> rfl
  all_goals rfl

end Sys2Proof
end

section
/-! PROOF. What a step is and what it returns (30_encoding.md R70 to R72). -/

namespace Sys2Proof.Machine

/-! ### The instruction runs -/

/-- Settles O7: a `pc` up to 0xFFE fetches the two bytes, the one at the lower address first. -/
theorem stepRunsTheDecodedInstruction : Obligations.StepRunsTheDecodedInstruction := fun s _ hs hpc hd =>
  step_of_fetch_decode hs (s.fetch_ok hpc) hd

/-! ### Progress -/

/-- No instruction refuses or stops the machine; CALL, RETURN and WAIT-FOR-KEY have two ways on. -/
theorem exec_exists_next (i : Instr) (s : State) : ∃ t, exec i s = .next t := by
  cases i with
  | call | ret | ldVxK =>
    simp only [exec, execCall, execRet, execLdVxK]
    split <;> exact ⟨_, rfl⟩
  | _ => exact ⟨_, rfl⟩

/-- R71: a machine without a latched fault has a step: a fetch fault, an unknown opcode or an instruction. -/
theorem step_exists_next {s : State} (hs : s.fault = none) : ∃ t, step s = .next t := by
  rw [step_running s hs]
  split
  · exact ⟨_, rfl⟩
  · split
    · exact exec_exists_next ..
    · exact ⟨_, rfl⟩

/-! ### What a step returns -/

/-- R71: no step, no output. -/
theorem stepOutput_faulted {s : State} {r : FaultRecord} (h : s.fault = some r) : stepOutput s = none := by
  simp only [stepOutput, step_faulted s r h]

/-- R208: a step that latches a fault returns its record. -/
theorem stepOutput_fatal {s t : State} {r : FaultRecord} (h : step s = .next t) (ht : t.fault = some r) :
    stepOutput s = some (.fatal r) := by
  simp only [stepOutput, h, ht]

/-- R72: a step that runs an instruction and latches no fault returns the opcode it fetched. -/
theorem stepOutput_ok {s t : State} {opcode : Word} {i : Instr} (h : step s = .next t) (ht : t.fault = none)
    (hf : s.fetch = .ok opcode) (hd : decode opcode = .ok i) : stepOutput s = some (.ok opcode) := by
  simp only [stepOutput, h, ht, hf, hd]

/-- Settles O10: no step and no output from a latched machine, progress from every other. -/
theorem machineStepsExactlyWhenNotFaulted : Obligations.MachineStepsExactlyWhenNotFaulted := fun s =>
  ⟨fun r hr => ⟨step_faulted s r hr, stepOutput_faulted hr⟩, step_exists_next⟩

/-- Settles O11: by the latch of the next state. -/
theorem stepReturnsTheOpcodeOrItsFault : Obligations.StepReturnsTheOpcodeOrItsFault := by
  intro s t i _ hpc _ hd hstep
  exact ⟨fun ht => stepOutput_ok hstep ht (s.fetch_ok hpc) hd, fun _ hr => stepOutput_fatal hstep hr⟩

end Sys2Proof.Machine
end

section
/-! PROOF. The rules of the frame: what setting `pc`, a push and a pop leave unchanged. -/

namespace Sys2Proof.Machine

theorem Frame.refl (written : List Component) (s : State) : Frame written s s := by
  intro c _
  cases c <;> rfl

theorem Frame.setPc {written : List Component} {s t : State} (h : Frame written s t) (w : Word) :
    Frame (.pc :: written) s (t.setPc w) := by
  intro c hc
  obtain ⟨hpc, hwritten⟩ := List.ne_and_not_mem_of_not_mem_cons hc
  have hst := h c hwritten
  cases c with
  | pc => exact absurd rfl hpc
  | _ => exact hst

/-- R100: a skip, taken or not, writes at most `pc`. -/
theorem State.frame_skipIf (s : State) (taken : Bool) : Frame [.pc] s (s.skipIf taken) := by
  obtain ⟨-, heq⟩ | ⟨-, heq⟩ := s.skipIf_cases taken <;> rw [heq]
  · exact (Frame.refl [] s).setPc _
  · exact Frame.refl _ s

/-- R26, R27: a push with `k` entries in use writes entry `k` and `sp`. -/
theorem State.frame_push {s t : State} {w : Word} {k : Fin 16} (hk : s.sp.val = k.val)
    (h : s.push w = some t) : Frame [.sp, .stackEntry k] s t := by
  obtain ⟨hs, rfl⟩ := s.push_some t w h
  intro c hc
  cases c with
  | sp => simp at hc
  | stackEntry j =>
    have hne : s.sp.val ≠ j.val := by simpa [hk, Fin.ext_iff, eq_comm] using hc
    exact Vector.getElem_set_ne hs _ hne
  | _ => rfl

/-- R26, R27: a pop writes `sp`; the entry taken keeps its value. -/
theorem State.frame_pop {s t : State} {w : Word} (h : s.pop = some (w, t)) : Frame [.sp] s t := by
  obtain ⟨-, -, rfl⟩ := s.pop_some t w h
  intro c hc
  cases c with
  | sp => simp at hc
  | _ => rfl

end Sys2Proof.Machine
end

section
/-! PROOF. When the call stack has room or an entry, and a pop after a push (10_state.md R26, R27). -/

namespace Sys2Proof.Machine

theorem State.push_of_lt {s : State} (w : Word) (hs : s.sp.val < 16) :
    s.push w = some { s with stack := s.stack.set s.sp.val w, sp := ⟨s.sp.val + 1, by omega⟩ } :=
  dif_pos hs

theorem State.pop_of_pos {s : State} (hs : 0 < s.sp.val) :
    s.pop = some (s.stack[s.sp.val - 1], { s with sp := ⟨s.sp.val - 1, by omega⟩ }) :=
  dif_pos hs

/-- The entry just pushed is the one popped, and the depth is the old one. -/
theorem State.pop_of_push {s t : State} {w : Word} (h : s.push w = some t) :
    t.pop = some (w, { t with sp := s.sp }) := by
  obtain ⟨hs, rfl⟩ := s.push_some t w h
  simp [State.pop]

/-- A pop does not look at `pc`. -/
theorem State.pop_setPc (s : State) (p : Word) :
    (s.setPc p).pop = s.pop.map fun q => (q.1, q.2.setPc p) := by
  rw [State.pop, State.pop, apply_dite (Option.map _)]
  rfl

end Sys2Proof.Machine
end

section
/-! PROOF. Control transfer (40_control_transfer.md R100 to R108). -/

namespace Sys2Proof.Machine

/-! ### CALL and RETURN by what the stack answers -/

theorem exec_call_of_push {addr : Addr} {s t : State} (h : s.push s.pc = some t) :
    exec (.call addr) s = .next (t.setPc (zextAddr addr)) := by
  simp only [exec, execCall, h]

theorem exec_call_overflow {addr : Addr} {s : State} (h : s.sp = 16) :
    exec (.call addr) s = .next (s.raise (.stackOverflow (encode (.call addr)) s.pcFetch)) := by
  simp only [exec, execCall, (s.push_none s.pc).mpr h]

theorem exec_ret_of_pop {x : RegIdx} {s t : State} {target : Word} (h : s.pop = some (target, t)) :
    exec (.ret x) s = .next (t.setPc target) := by
  simp only [exec, execRet, h]

theorem exec_ret_underflow {x : RegIdx} {s : State} (h : s.sp = 0) :
    exec (.ret x) s = .next (s.raise (.stackUnderflow (encode (.ret x)) s.pcFetch)) := by
  simp only [exec, execRet, s.pop_none.mpr h]

/-! ### The obligations -/

/-- Settles O15: a push succeeds exactly below 16 entries, and then `pc` is set. -/
theorem callPushesAndJumpsOrOverflows : Obligations.CallPushesAndJumpsOrOverflows := by
  intro addr s
  refine ⟨decode_encode (.call addr) rfl, fun k hk => ?_, fun hs => exec_call_overflow hs⟩
  have hpush := State.push_of_lt (s := s) s.pc (by omega)
  exact ⟨_, exec_call_of_push hpush, by simp [hk], by simp [hk], rfl, (State.frame_push hk hpush).setPc _⟩

/-- Settles O16: a pop succeeds exactly above 0 entries, and then `pc` is set to the entry taken. -/
theorem returnPopsIntoPcOrUnderflows : Obligations.ReturnPopsIntoPcOrUnderflows := by
  intro x s
  refine ⟨decode_encode (.ret x) rfl, fun k hk => ?_, fun hs => exec_ret_underflow hs⟩
  have hpop := State.pop_of_pos (s := s) (by omega)
  exact ⟨_, exec_ret_of_pop hpop, by simp [hk], by simp [hk], (State.frame_pop hpop).setPc _⟩

/-- Settles O17: the RETURN pops what the CALL pushed; neither the jump nor the new `pc` touches the
stack. -/
theorem callThenReturnRestoresPc : Obligations.CallThenReturnRestoresPc := by
  intro addr x p s t hs hcall
  obtain ⟨u, hu⟩ : ∃ u, s.push s.pc = some u := ⟨_, State.push_of_lt s.pc hs⟩
  obtain rfl : u.setPc (zextAddr addr) = t := by simpa [exec_call_of_push hu] using hcall
  have hpop : (u.setPc p).pop = some (s.pc, { u with sp := s.sp }.setPc p) := by
    rw [State.pop_setPc, State.pop_of_push hu]
    rfl
  exact ⟨_, exec_ret_of_pop hpop, rfl, rfl⟩

/-- Settles O13: the jump sets `pc` alone. -/
theorem jumpSetsPcToTheAddress : Obligations.JumpSetsPcToTheAddress := fun addr s =>
  ⟨decode_encode (.jp addr) rfl, _, rfl, rfl, (Frame.refl [] s).setPc _⟩

/-- Settles O18: both are skips, on the comparison with the byte. -/
theorem immediateSkipsCompareTheByte : Obligations.ImmediateSkipsCompareTheByte := by
  intro x nn s
  refine ⟨⟨decode_encode (.seImm x nn) rfl, _, rfl, ?_, s.frame_skipIf _⟩,
    decode_encode (.sneImm x nn) rfl, _, rfl, ?_, s.frame_skipIf _⟩
  all_goals simp [State.getV]

/-- Settles O19: both are skips, on the comparison of the registers; the low nibble is ignored. -/
theorem registerSkipsCompareTheRegisters : Obligations.RegisterSkipsCompareTheRegisters := by
  intro x y n s
  refine ⟨⟨decode_encode (.seReg x y n) rfl, _, rfl, ?_, s.frame_skipIf _⟩,
    decode_encode (.sneReg x y n) rfl, _, rfl, ?_, s.frame_skipIf _⟩
  all_goals simp [State.getV]

end Sys2Proof.Machine
end

section
/-! PROOF. Register-immediate operations (41_register_immediate.md R120), by the frame of a register write. -/

namespace Sys2Proof.Machine

/-- R21: a register write changes that register alone. -/
theorem Frame.setV {written : List Component} {s t : State} (h : Frame written s t) (x : RegIdx)
    (b : Byte) : Frame (.reg x :: written) s (t.setV x b) := by
  intro c hc
  obtain ⟨hne, hwritten⟩ := List.ne_and_not_mem_of_not_mem_cons hc
  have hst := h c hwritten
  cases c with
  | reg k =>
    have hxk : x ≠ k := fun hx => hne (hx ▸ rfl)
    have hget : (t.setV x b).getV k = t.getV k := (t.getV_setV x k b).trans (if_neg hxk)
    exact hget.trans hst
  | _ => exact hst

theorem State.getV_setV_self (s : State) (x : RegIdx) (b : Byte) : (s.setV x b).getV x = b :=
  (s.getV_setV x x b).trans (if_pos rfl)

/-- Settles O20: the instruction is one register write. -/
theorem loadImmediateWritesTheByte : Obligations.LoadImmediateWritesTheByte := fun x nn s =>
  ⟨decode_encode (.ldImm x nn) rfl, _, rfl, s.getV_setV_self x nn, (Frame.refl [] s).setV x nn⟩

end Sys2Proof.Machine
end

section
/-! PROOF. The ALU family (42_alu.md R131 to R138): a move or bitwise operation is one register write, an
arithmetic operation is a result and then its flag. -/

namespace Sys2Proof.Machine

/-! ### One register write -/

/-- R131 to R134: a register write, as an outcome, with its frame. -/
theorem State.setV_writes (s : State) (x : RegIdx) (b : Byte) :
    ∃ t, (.next (s.setV x b) : Host.Outcome State Fault Refusal) = .next t ∧ t.v[x] = b ∧
      Frame [.reg x] s t :=
  ⟨_, rfl, s.getV_setV_self x b, (Frame.refl [] s).setV x b⟩

/-! ### The result and the flag -/

theorem State.getV_setResult_vf (s : State) (x : RegIdx) (b : Byte) (flag : Bool) :
    (s.setResult x b flag).getV vf = flagByte flag :=
  (s.getV_setResult x vf b flag).trans (if_pos rfl)

theorem State.getV_setResult_self (s : State) {x : RegIdx} (hx : x ≠ vf) (b : Byte) (flag : Bool) :
    (s.setResult x b flag).getV x = b :=
  (s.getV_setResult x x b flag).trans ((if_neg hx).trans (if_pos rfl))

theorem State.frame_setResult (s : State) (x : RegIdx) (b : Byte) (flag : Bool) :
    Frame [.reg x, .reg vf] s (s.setResult x b flag) := fun c hc =>
  ((Frame.refl [] s).setV x b).setV vf (flagByte flag) c fun h => hc ((List.Perm.swap _ _ []).mem_iff.mp h)

theorem flagByte_decide (p : Prop) [Decidable p] : flagByte (decide p) = if p then 1 else 0 := by
  simp [flagByte]

theorem sumByte_toNat (a b : Byte) : (sumByte a b).toNat = (a.toNat + b.toNat) % 256 :=
  BitVec.toNat_ofNat ..

/-- R130 (c): the signed difference wraps to the one taken from the minuend plus 256. -/
theorem diffByte_toNat (minuend subtrahend : Byte) :
    (diffByte minuend subtrahend).toNat = (minuend.toNat + 256 - subtrahend.toNat) % 256 := by
  have hsub := subtrahend.isLt
  rw [diffByte, BitVec.toNat_ofInt]
  omega

/-- R130 (g), R41: what an arithmetic operation leaves when its result is `n` as a number and its flag says
`p`; the flag is written last, so VF holds it also when VF is the destination. -/
theorem State.setResult_writes (s : State) (x : RegIdx) (b : Byte) (p : Prop) [Decidable p] {n : Nat}
    (hb : b.toNat = n) :
    ∃ t, (.next (s.setResult x b (decide p)) : Host.Outcome State Fault Refusal) = .next t ∧
      t.v[vf] = (if p then 1 else 0) ∧ (x ≠ vf → t.v[x].toNat = n) ∧
      Frame [.reg x, .reg vf] s t :=
  ⟨_, rfl, (s.getV_setResult_vf x b _).trans (flagByte_decide p),
    fun hx => (congrArg BitVec.toNat (s.getV_setResult_self hx b _)).trans hb,
    s.frame_setResult x b _⟩

/-! ### The obligations -/

/-- Settles O23: each of the four is one register write. -/
theorem movesAndLogicWriteOnlyTheirDestination : Obligations.MovesAndLogicWriteOnlyTheirDestination :=
  fun x y s =>
    ⟨⟨decode_encode (.ldReg x y) rfl, s.setV_writes x _⟩, ⟨decode_encode (.orReg x y) rfl, s.setV_writes x _⟩,
      ⟨decode_encode (.andReg x y) rfl, s.setV_writes x _⟩, decode_encode (.xorReg x y) rfl, s.setV_writes x _⟩

/-- Settles O24: the sum, then the carry. -/
theorem addRegisterSetsSumAndCarry : Obligations.AddRegisterSetsSumAndCarry := fun x y s =>
  ⟨decode_encode (.addReg x y) rfl, s.setResult_writes x _ _ (sumByte_toNat (s.getV x) (s.getV y))⟩

/-- Settles O25: the difference with minuend `V[x]`, then the strict comparison. -/
theorem subtractSetsDifferenceAndStrictFlag : Obligations.SubtractSetsDifferenceAndStrictFlag := fun x y s =>
  ⟨decode_encode (.sub x y) rfl, s.setResult_writes x _ _ (diffByte_toNat (s.getV x) (s.getV y))⟩

/-- Settles O26: the difference with minuend `V[y]`, then the strict comparison. -/
theorem subtractReversedSetsDifferenceAndStrictFlag :
    Obligations.SubtractReversedSetsDifferenceAndStrictFlag := fun x y s =>
  ⟨decode_encode (.subn x y) rfl, s.setResult_writes x _ _ (diffByte_toNat (s.getV y) (s.getV x))⟩

end Sys2Proof.Machine
end

section
/-! PROOF. The address register and the digit store (43_index_memory.md R150, R153), by the frames of a
write to `I` and of a block store and by the two answers of the bounds check. -/

namespace Sys2Proof.Machine

/-! ### The frames of the two writes -/

/-- R23: a write to `I` changes `I` alone. -/
theorem Frame.setI {written : List Component} {s t : State} (h : Frame written s t) (w : Word) :
    Frame (.index :: written) s (t.setI w) := by
  intro c hc
  obtain ⟨hne, hwritten⟩ := List.ne_and_not_mem_of_not_mem_cons hc
  have hst := h c hwritten
  cases c with
  | index => exact absurd rfl hne
  | _ => exact hst

/-- R57: a block store changes the bytes of the block alone. -/
theorem State.frameStore_storeBytes (s : State) (base : Nat) (bs : List Byte) :
    FrameStore base bs.length s (s.storeBytes base bs) := by
  intro c hc
  cases c with
  | byte k =>
    have hout : k < base ∨ base + bs.length ≤ k := by
      by_contra hin
      exact hc k (by omega) (by omega) rfl
    exact s.load_storeBytes_ne base k bs hout
  | _ => simp [Agrees]

/-! ### The bounds check, answered -/

/-- R54: a block that lies in memory is accessed. -/
theorem State.withRange_of_le (s : State) (i : Instr) {base n : Nat} (effect : State)
    (h : base + n ≤ Config.memSize) : s.withRange i base n effect = effect := by
  simp only [State.withRange, (lowestBad_none base n).mpr (.inr h)]

/-- R54, R204: a block that reaches past the end is a fault at its lowest address out of range. -/
theorem State.withRange_of_lt (s : State) (i : Instr) {base n : Nat} (effect : State) (hn : 0 < n)
    (h : Config.memSize < base + n) :
    s.withRange i base n effect =
      s.raise (.memoryOutOfRange (max base Config.memSize) (some (encode i)) s.pcFetch) := by
  have hbad : lowestBad base n = some (max base Config.memSize) := if_pos ⟨hn, h⟩
  simp only [State.withRange, hbad]

/-! ### The decimal digits -/

/-- R153: each digit fits a byte, so as numbers they are the hundreds, tens and units of the value. -/
theorem bcdDigits_toNat (b : Byte) :
    (bcdDigits b).map BitVec.toNat = [b.toNat / 100, b.toNat / 10 % 10, b.toNat % 10] := by
  have hb := b.isLt
  simp only [bcdDigits, List.map_cons, List.map_nil, BitVec.toNat_ofNat, List.cons.injEq, and_true]
  omega

/-- R153: what is read back, as a number, after the digits of `b` were stored at `base`. -/
theorem State.load_storeBytes_bcdDigits (s : State) (base j : Nat) (b : Byte) (hj : j < 3)
    (hm : Memory.wf s.font s.mem) (hbase : base + 3 ≤ Config.memSize) :
    ((s.storeBytes base (bcdDigits b)).load (base + j)).toNat =
      [b.toNat / 100, b.toNat / 10 % 10, b.toNat % 10][j] := by
  rw [s.load_storeBytes_at base j (bcdDigits b) hj hm hbase]
  exact (List.getElem_map ..).symm.trans (List.getElem_of_eq (bcdDigits_toNat b) hj)

/-! ### STORE-BCD by the answer of the bounds check -/

theorem exec_ldBVx_of_le {x : RegIdx} {s : State} (h : s.i.toNat + 3 ≤ Config.memSize) :
    exec (.ldBVx x) s = .next (s.storeBytes s.i.toNat (bcdDigits s.v[x])) :=
  congrArg Host.Outcome.next (s.withRange_of_le (.ldBVx x) _ h)

theorem exec_ldBVx_of_lt {x : RegIdx} {s : State} (h : Config.memSize < s.i.toNat + 3) :
    exec (.ldBVx x) s = .next (s.raise
      (.memoryOutOfRange (max s.i.toNat Config.memSize) (some (encode (.ldBVx x))) s.pcFetch)) :=
  congrArg Host.Outcome.next (s.withRange_of_lt (.ldBVx x) _ (by decide) h)

/-! ### The obligations -/

/-- Settles O28: the instruction is one write to `I`. -/
theorem loadIndexWritesTheAddress : Obligations.LoadIndexWritesTheAddress := fun addr s =>
  ⟨decode_encode (.ldI addr) rfl, _, rfl, rfl, (Frame.refl [] s).setI _⟩

/-- Settles O30: the three addresses are in memory exactly when the last one is; then the digits are one
block store. -/
theorem storeBcdWritesThreeDigitsOrFaults : Obligations.StoreBcdWritesThreeDigitsOrFaults := by
  intro x s
  refine ⟨decode_encode (.ldBVx x) rfl, fun hi hm => ?_,
    fun hi => exec_ldBVx_of_lt (Nat.add_lt_add_right hi 1)⟩
  have hfit : s.i.toNat + 3 ≤ Config.memSize := Nat.add_le_add_right hi 1
  have hdigit := fun j hj => s.load_storeBytes_bcdDigits s.i.toNat j s.v[x] hj hm hfit
  exact ⟨_, exec_ldBVx_of_le hfit, hdigit 0 (by decide), hdigit 1 (by decide), hdigit 2 (by decide),
    s.frameStore_storeBytes s.i.toNat (bcdDigits s.v[x])⟩

end Sys2Proof.Machine
end

section
/-! PROOF. The timer moves (45_keypad_timers.md R183 to R185), by the frame of a write to a timer. -/

namespace Sys2Proof.Machine

/-! ### The frames of the two writes -/

/-- R28: a write to the delay timer changes it alone. -/
theorem State.frame_setDt (s : State) (b : Byte) : Frame [.delayTimer] s (s.setDt b) := by
  intro c hc
  cases c with
  | delayTimer => exact absurd (List.mem_singleton_self _) hc
  | _ => rfl

/-- R29: a write to the sound timer changes it alone. -/
theorem State.frame_setSt (s : State) (b : Byte) : Frame [.soundTimer] s (s.setSt b) := by
  intro c hc
  cases c with
  | soundTimer => exact absurd (List.mem_singleton_self _) hc
  | _ => rfl

/-! ### The obligation -/

/-- Settles O40: each of the three is one write, to `V[x]`, to DT and to ST. -/
theorem timerMovesCopyOneByte : Obligations.TimerMovesCopyOneByte := fun x s =>
  ⟨⟨decode_encode (.ldVxDt x) rfl, s.setV_writes x s.dt⟩,
    ⟨decode_encode (.ldDtVx x) rfl, _, rfl, rfl, s.frame_setDt s.v[x]⟩,
    decode_encode (.ldStVx x) rfl, _, rfl, rfl, s.frame_setSt s.v[x]⟩

end Sys2Proof.Machine
end

section
/-! PROOF. The rules a fatal fault comes from: a fetch past the end (60_exceptions.md R204 (a)), the key skips
(45_keypad_timers.md R180, R181; R205), and which instruction raises which fault (R200, R212). -/

namespace Sys2Proof.Machine

/-! ### The fetch -/

/-- Settles O8: of the three ways to a next state it is the fetch fault. -/
theorem fetchPastTheEndIsFatal : Obligations.FetchPastTheEndIsFatal := fun s hs hpc =>
  (step_next_iff s _).mpr ⟨hs, .inl ⟨_, s.fetch_error hpc, rfl⟩⟩

/-! ### The key skips, by the number in `V[x]` -/

theorem State.keySkip_of_toNat_eq {s : State} {x : RegIdx} {k : Fin 16} (i : Instr) (pressed : Bool)
    (h : s.v[x].toNat = k.val) : s.keySkip i x pressed = s.skipIf (s.key k == pressed) := by
  have hk : keyOf (s.getV x) = some k := (keyOf_some _ k).mpr h
  simp only [State.keySkip, hk]

theorem State.keySkip_of_lt {s : State} {x : RegIdx} (i : Instr) (pressed : Bool) (h : 15 < s.v[x].toNat) :
    s.keySkip i x pressed = s.raise (.keypadIndexOutOfRange s.v[x] (encode i) s.pcFetch) := by
  have hk : keyOf (s.getV x) = none := (keyOf_none _).mpr h
  simp only [State.keySkip, hk]
  rfl

/-- R180, R181: a key skip on a key that exists, as an outcome, with its frame. -/
theorem State.keySkip_writes {s : State} {x : RegIdx} {k : Fin 16} (i : Instr) (pressed : Bool)
    (h : s.v[x].toNat = k.val) :
    ∃ t, (.next (s.keySkip i x pressed) : Host.Outcome State Fault Refusal) = .next t ∧
      t.pc = (if s.keypad[k] = pressed then s.pc + 2 else s.pc) ∧ Frame [.pc] s t := by
  rw [State.keySkip_of_toNat_eq i pressed h]
  exact ⟨_, rfl, by simp [State.key], s.frame_skipIf _⟩

/-- Settles O37: both opcodes are key skips, which skip on a key that exists and fault on any other
number. -/
theorem keySkipsTestTheNamedKeyOrFault : Obligations.KeySkipsTestTheNamedKeyOrFault := by
  intro x nn s
  refine ⟨decode_encode (.skp x) rfl, fun hnn => decode_encode (.sknp x nn) (bne_iff_ne.mpr hnn),
    fun k hk => ⟨State.keySkip_writes (.skp x) true hk, State.keySkip_writes (.sknp x nn) false hk⟩,
    fun hx => ⟨?_, ?_⟩⟩
  · exact congrArg Host.Outcome.next (State.keySkip_of_lt (.skp x) true hx)
  · exact congrArg Host.Outcome.next (State.keySkip_of_lt (.sknp x nn) false hx)

/-! ### Which operation latches which fault -/

theorem State.fault_ne_some {s t : State} {r : FaultRecord} (hs : s.fault = none) (heq : t.fault = s.fault) :
    t.fault ≠ some r := by
  simp [heq, hs]

/-- R204: an access of a block, where its effect latches nothing, latches only an address out of range. -/
theorem State.withRange_fault {s effect : State} {i : Instr} {base n : Nat} {r : FaultRecord}
    (h : (s.withRange i base n effect).fault = some r) (he : effect.fault = none) :
    ∃ a, 0xFFF < a ∧ r = .memoryOutOfRange a (some (encode i)) s.pcFetch := by
  obtain ⟨-, heq⟩ | ⟨a, ha, heq⟩ := s.withRange_cases i base n effect <;> rw [heq] at h
  · exact absurd h (State.fault_ne_some he rfl)
  · obtain ⟨⟨-, -, hout⟩, -⟩ := (lowestBad_some base n a).mp ha
    exact ⟨a, hout, (Option.some.inj h).symm⟩

/-- R205: a key skip latches only a key number above 15. -/
theorem State.keySkip_fault {s : State} {i : Instr} {x : RegIdx} {pressed : Bool} {r : FaultRecord}
    (hs : s.fault = none) (h : (s.keySkip i x pressed).fault = some r) :
    ∃ k : Byte, 15 < k.toNat ∧ r = .keypadIndexOutOfRange k (encode i) s.pcFetch := by
  obtain ⟨k, -, heq⟩ | ⟨hk, heq⟩ := s.keySkip_cases i x pressed <;> rw [heq] at h
  · exact absurd h (State.fault_ne_some hs (s.skipIf_fault _))
  · exact ⟨s.getV x, (keyOf_none _).mp hk, (Option.some.inj h).symm⟩

theorem State.push_fault {s t : State} {w : Word} (h : s.push w = some t) : t.fault = s.fault := by
  obtain ⟨-, rfl⟩ := s.push_some t w h
  rfl

theorem State.pop_fault {s t : State} {w : Word} (h : s.pop = some (w, t)) : t.fault = s.fault := by
  obtain ⟨-, -, rfl⟩ := s.pop_some t w h
  rfl

/-- R202: a CALL latches only a stack overflow. -/
theorem exec_call_fault {addr : Addr} {s t : State} {r : FaultRecord} (hs : s.fault = none)
    (h : exec (.call addr) s = .next t) (ht : t.fault = some r) :
    r = .stackOverflow (encode (.call addr)) s.pcFetch := by
  cases hp : s.push s.pc with
  | none =>
    rw [exec_call_overflow ((s.push_none _).mp hp)] at h
    cases h
    exact (Option.some.inj ht).symm
  | some u =>
    rw [exec_call_of_push hp] at h
    cases h
    exact absurd ht (State.fault_ne_some hs ((u.setPc_fault _).trans (State.push_fault hp)))

/-- R203: a RETURN latches only a stack underflow. -/
theorem exec_ret_fault {x : RegIdx} {s t : State} {r : FaultRecord} (hs : s.fault = none)
    (h : exec (.ret x) s = .next t) (ht : t.fault = some r) :
    r = .stackUnderflow (encode (.ret x)) s.pcFetch := by
  cases hp : s.pop with
  | none =>
    rw [exec_ret_underflow (s.pop_none.mp hp)] at h
    cases h
    exact (Option.some.inj ht).symm
  | some p =>
    rw [exec_ret_of_pop hp] at h
    cases h
    exact absurd ht (State.fault_ne_some hs ((p.2.setPc_fault _).trans (State.pop_fault hp)))

/-- Settles O42: CALL and RETURN by the stack, the block accesses by the bounds check, the key skips by the
key number; no other instruction writes the latch. -/
theorem eachFaultHasItsOwnInstructions : Obligations.EachFaultHasItsOwnInstructions := by
  intro i s t r hs h ht
  cases i with
  | call addr => exact .inl ⟨⟨addr, rfl⟩, exec_call_fault hs h ht⟩
  | ret x => exact .inr (.inl ⟨⟨x, rfl⟩, exec_ret_fault hs h ht⟩)
  | drw | ldBVx | ldMemVx | ldVxMem =>
    cases h
    exact .inr (.inr (.inl ⟨by simp, State.withRange_fault ht (by simpa using hs)⟩))
  | skp | sknp => cases h; exact .inr (.inr (.inr ⟨by simp, State.keySkip_fault hs ht⟩))
  | seImm | sneImm | seReg | sneReg =>
    cases h
    exact absurd ht (State.fault_ne_some hs (s.skipIf_fault _))
  | ldVxK =>
    simp only [exec, execLdVxK] at h
    split at h
    all_goals cases h; exact absurd ht (State.fault_ne_some hs rfl)
  | _ => cases h; exact absurd ht (State.fault_ne_some hs rfl)

end Sys2Proof.Machine
end

section
/-! PROOF. What the environment touches (60_exceptions.md R217 to R219, R224), and the frame a presenter reads
(10_state.md R32). -/

namespace Sys2Proof.Machine

/-- R218: the keypad source changes keys alone. -/
theorem State.frame_setKeys (s : State) (keys : Vector Bool 16) :
    Frame ((List.finRange 16).map .key) s (s.setKeys keys) := by
  intro c hc
  cases c with
  | key k => exact absurd (List.mem_map_of_mem (List.mem_finRange k)) hc
  | _ => rfl

/-- R219: the presenter changes the dirty flag alone. -/
theorem State.frame_present (s : State) : Frame [.dirty] s s.present := by
  intro c hc
  cases c with
  | dirty => exact absurd (List.mem_singleton_self _) hc
  | _ => rfl

/-- R32: element `r * 64 + c` of a frame is cell (`c`, `r`). -/
theorem State.frame_getElem {s : State} (hs : s.screenUpdated = true) :
    ∃ f, s.frame = some f ∧ ∀ (c : Fin 64) (r : Fin 32) (idx : Fin 2048),
      idx.val = r.val * 64 + c.val → f[idx] = s.display.cell c r := by
  refine ⟨_, if_pos hs, fun c r idx hidx => ?_⟩
  have hc : Fin.ofNat 64 (idx.val % 64) = c := Fin.ext (by simp only [Fin.val_ofNat]; omega)
  have hr : Fin.ofNat 32 (idx.val / 64) = r := Fin.ext (by simp only [Fin.val_ofNat]; omega)
  rw [Fin.getElem_fin, Vector.getElem_ofFn, hc, hr]

/-- Settles O57: by the frames of the two writes, the order of the frame's elements, and the three
environment transitions. -/
theorem environmentTouchesOnlyItsOwnFields : Obligations.EnvironmentTouchesOnlyItsOwnFields := by
  refine ⟨fun s keys => ⟨rfl, s.frame_setKeys keys⟩, fun s => ⟨rfl, s.frame_present⟩,
    fun s hs => State.frame_getElem hs, fun s hs => if_neg (by simp [hs]), fun s e => ?_⟩
  cases e <;> exact ⟨rfl, rfl, rfl, rfl, rfl, rfl, rfl, rfl⟩

end Sys2Proof.Machine
end

section
/-! PROOF. The invariant of 10_state.md R40 in every reachable state: at launch, across a step, across an
environment transition. -/

namespace Sys2Proof.Machine

theorem Inv.resetWith (font : Vector Byte 80) (strict : Bool) (draws : Nat) :
    Inv (State.resetWith font strict draws) :=
  ⟨by simp [State.resetWith], fun _ hk => absurd hk (Nat.not_lt_zero _),
    State.resetWith_mem_wf font strict draws⟩

theorem Inv.storeBytes {s : State} (h : Inv s) (a : Nat) (bs : List Byte) : Inv (s.storeBytes a bs) :=
  ⟨by simpa using h.pc_le, by simpa using h.live_le, by simpa using s.storeBytes_wf a bs h.mem_wf⟩

/-- R240, R242: a launch is a reset and one block store. -/
theorem Inv.launch (font : Vector Byte 80) (strict : Bool) (draws : Nat) (rom : List Byte) :
    Inv (State.launch font strict draws rom) :=
  (Inv.resetWith font strict draws).storeBytes _ _

/-- R224: the environment writes none of the invariant's fields. -/
theorem Inv.env {s : State} (h : Inv s) (e : EnvEvent) : Inv (s.env e) := by
  cases e <;> exact ⟨h.pc_le, h.live_le, h.mem_wf⟩

/-- Settles O51, by induction on how the state is reached. -/
theorem reachableStatesMeetTheInvariant : Obligations.ReachableStatesMeetTheInvariant := by
  intro s h
  induction h with
  | launch font strict draws rom => exact Inv.launch font strict draws rom
  | step s t _ hstep hs => exact stepKeepsTheInvariant s t hs hstep
  | env s e _ hs => exact hs.env e

end Sys2Proof.Machine
end

section
/-! PROOF. The machine at rest (70_reset_and_hazards.md R260): a step leaves it as it is, and the environment
neither brings it to rest nor wakes it. -/

namespace Sys2Proof.Machine

/-! ### A step at rest -/

/-- R260: the JUMP to itself leaves the state as it was. -/
theorem AtRest.step_eq {s : State} (h : AtRest s) : step s = .next s := by
  obtain ⟨hs, addr, hf, haddr⟩ := h
  rw [step_of_fetch_decode hs hf (decode_encode (.jp addr) rfl)]
  exact congrArg (fun w => Host.Outcome.next (s.setPc w)) haddr

/-- R72, R260: the step returns the opcode of the JUMP, which is what the fetch reads. -/
theorem AtRest.stepOutput_eq {s : State} {opcode : Word} (h : AtRest s) (hf : s.fetch = .ok opcode) :
    stepOutput s = some (.ok opcode) := by
  obtain ⟨hs, addr, hjp, -⟩ := id h
  obtain rfl : encode (.jp addr) = opcode := Except.ok.inj (hjp.symm.trans hf)
  exact stepOutput_ok h.step_eq hs hf (decode_encode (.jp addr) rfl)

/-! ### The environment's own fields -/

/-- The state `t` with the fields the environment may write taken from `s`. -/
def State.withEnvOf (t s : State) : State :=
  { t with dt := s.dt, st := s.st, keypad := s.keypad, screenUpdated := s.screenUpdated }

theorem State.env_withEnvOf (s : State) (e : EnvEvent) : (s.env e).withEnvOf s = s := by
  cases e <;> rfl

/-- To differ in the environment's fields alone is transitive. -/
theorem State.withEnvOf_trans {s t u : State} (hu : u.withEnvOf s = s) (ht : t.withEnvOf u = u) :
    t.withEnvOf s = s :=
  calc t.withEnvOf s
    _ = (t.withEnvOf u).withEnvOf s := rfl
    _ = s := by rw [ht, hu]

/-- R70: the fetch reads none of the environment's fields. -/
theorem State.fetch_withEnvOf (t s : State) : (t.withEnvOf s).fetch = t.fetch := rfl

/-- R260: being at rest depends on the latch, `pc` and memory, none of them the environment's. -/
theorem atRest_iff_of_withEnvOf {s t : State} (h : t.withEnvOf s = s) : AtRest t ↔ AtRest s :=
  calc AtRest t
    _ ↔ AtRest (t.withEnvOf s) := Iff.rfl
    _ ↔ AtRest s := by rw [h]

/-! ### Runs from a state at rest -/

/-- At rest, an action other than a new reset moves the environment's fields at most. -/
theorem AtRest.act {s : State} (h : AtRest s) {a : Action} (ha : a.isLaunch = false) :
    ∃ u, s.act a = .next u ∧ u.withEnvOf s = s := by
  cases a with
  | step => exact ⟨s, h.step_eq, rfl⟩
  | env e => exact ⟨s.env e, rfl, s.env_withEnvOf e⟩
  | launch => cases ha

theorem AtRest.runActions {s : State} (h : AtRest s) {schedule : List Action}
    (hsched : ∀ a ∈ schedule, a.isLaunch = false) :
    ∃ t, s.runActions schedule = .next t ∧ t.withEnvOf s = s := by
  induction schedule generalizing s with
  | nil => exact ⟨s, rfl, rfl⟩
  | cons a rest ih =>
    obtain ⟨ha, hrest⟩ := List.forall_mem_cons.mp hsched
    obtain ⟨u, hact, hu⟩ := h.act ha
    obtain ⟨t, hrun, ht⟩ := ih ((atRest_iff_of_withEnvOf hu).mpr h) hrest
    exact ⟨t, (s.runActions_cons u a rest hact).trans hrun, State.withEnvOf_trans hu ht⟩

/-- Settles O58: the run moves the environment's fields alone, so it ends at rest at the same opcode. -/
theorem atRestOnlyTheEnvironmentMoves : Obligations.AtRestOnlyTheEnvironmentMoves := by
  intro s schedule h hsched
  obtain ⟨t, hrun, ht⟩ := h.runActions hsched
  have hrest : AtRest t := (atRest_iff_of_withEnvOf ht).mpr h
  obtain ⟨-, addr, hf, -⟩ := id hrest
  have hfetch : s.fetch = t.fetch := by rw [← t.fetch_withEnvOf s, ht]
  exact ⟨t, _, hrun, hrest, h.stepOutput_eq (hfetch.trans hf), hrest.stepOutput_eq hf, ht⟩

/-! ### The first state at rest -/

/-- R260: the last action before the first state at rest is a step: a new reset is excluded, and before an
environment transition the machine was at rest already. -/
theorem EndsAtRest.last_eq_step {start t : State} {before : List Action} {a : Action}
    (h : EndsAtRest start (before ++ [a]) t) : a = .step := by
  obtain ⟨u, hu, hlast⟩ := (start.runActions_append_next t before [a]).mp h.runs
  obtain ⟨v, hact, hnil⟩ := u.runActions_cons_next t a [] hlast
  obtain rfl : v = t := by cases hnil; rfl
  cases a with
  | step => rfl
  | launch strict rom => cases h.noReset (.launch strict rom) (by simp)
  | env e =>
    cases hact
    have hrest : AtRest u := (atRest_iff_of_withEnvOf (u.env_withEnvOf e)).mp h.rest
    exact absurd hrest (h.first before (List.prefix_append before _) (by simp) u hu)

/-- Settles O59: the last action is a step, and a longer schedule would pass the state at rest. -/
theorem firstRestIsOneStateReachedByAStep : Obligations.FirstRestIsOneStateReachedByAStep := by
  intro start t schedule h
  constructor
  · obtain hnil | ⟨before, a, rfl⟩ := schedule.eq_nil_or_concat'
    · exact .inl hnil
    · obtain rfl := h.last_eq_step
      exact .inr ⟨before, rfl⟩
  · intro longer u hprefix hlonger
    obtain rfl : schedule = longer := by
      by_contra hne
      exact hlonger.first schedule hprefix hne t h.runs h.rest
    exact ⟨rfl, Host.Outcome.next.inj (hlonger.runs.symm.trans h.runs)⟩

end Sys2Proof.Machine
end

section
/-! PROOF. The invariant of 10_state.md R40 at launch, whatever the font, the mode and the ROM. -/

namespace Sys2Proof.Machine

/-- Settles O49: reset meets the invariant (R240), and the load of the image is a block store, which keeps it
(R242). -/
theorem launchMeetsTheInvariant : Obligations.LaunchMeetsTheInvariant := Inv.launch

end Sys2Proof.Machine
end

section
/-! PROOF. The stale stack entries, those at or above `sp`, are never read (10_state.md R26): every operation of
the core but CALL and RETURN commutes with exchanging the stack, and those two look at live entries alone. -/

namespace Sys2Proof.Machine

/-- The same state with another stack. -/
def State.withStack (s : State) (stack : Vector Word 16) : State := { s with stack := stack }

/-- A stack holds the live entries of a state, those below `sp` (R26). -/
def State.LiveIn (s : State) (stack : Vector Word 16) : Prop :=
  ∀ k : Fin 16, k.val < s.sp.val → stack[k] = s.stack[k]

/-- R26: two states differ in stale entries alone exactly when the second is the first with a stack that holds
the live entries. -/
theorem sameButStale_iff {s s' : State} :
    SameButStale s s' ↔ ∃ stack, s.LiveIn stack ∧ s' = s.withStack stack := by
  constructor
  · rintro ⟨heq, hlive⟩
    exact ⟨s'.stack, hlive, by rw [← heq]; rfl⟩
  · rintro ⟨stack, hlive, rfl⟩
    exact ⟨rfl, hlive⟩

/-! ### The operations that leave the stack alone -/

section Commutes

variable (s : State) (stack : Vector Word 16)

theorem State.skipIf_withStack (taken : Bool) :
    (s.withStack stack).skipIf taken = (s.skipIf taken).withStack stack := by
  cases taken <;> rfl

theorem State.unknown_withStack (opcode : Word) :
    (s.withStack stack).unknown opcode = (s.unknown opcode).withStack stack := by
  rw [State.unknown, State.unknown, apply_ite (fun u : State => u.withStack stack)]
  rfl

theorem State.keySkip_withStack (i : Instr) (x : RegIdx) (pressed : Bool) :
    (s.withStack stack).keySkip i x pressed = (s.keySkip i x pressed).withStack stack := by
  rw [State.keySkip, State.keySkip, show (s.withStack stack).getV x = s.getV x from rfl]
  cases keyOf (s.getV x) with
  | none => rfl
  | some k => exact s.skipIf_withStack stack (s.key k == pressed)

theorem State.storeBytes_withStack (a : Nat) (bytes : List Byte) :
    (s.withStack stack).storeBytes a bytes = (s.storeBytes a bytes).withStack stack := by
  induction bytes generalizing s a with
  | nil => rfl
  | cons b bytes ih => exact ih (s.store a b) (a + 1)

theorem State.withRange_withStack (i : Instr) (base n : Nat) {effect effect' : State}
    (he : effect' = effect.withStack stack) :
    (s.withStack stack).withRange i base n effect' = (s.withRange i base n effect).withStack stack := by
  rw [he, State.withRange, State.withRange]
  cases lowestBad base n <;> rfl

/-- R26: an instruction other than CALL and RETURN has the same outcome with any stack, up to the stack. -/
theorem State.exec_withStack {i : Instr} {t : State} (hcall : ∀ addr, i ≠ .call addr) (hret : ∀ x, i ≠ .ret x)
    (h : exec i s = .next t) : exec i (s.withStack stack) = .next (t.withStack stack) := by
  cases i with
  | call addr => exact absurd rfl (hcall addr)
  | ret x => exact absurd rfl (hret x)
  | seImm | sneImm | seReg | sneReg =>
    cases h; exact congrArg Host.Outcome.next (s.skipIf_withStack stack _)
  | skp | sknp => cases h; exact congrArg Host.Outcome.next (s.keySkip_withStack stack _ _ _)
  | ldBVx | ldMemVx =>
    cases h
    exact congrArg Host.Outcome.next (s.withRange_withStack stack _ _ _ (s.storeBytes_withStack stack _ _))
  | ldVxMem | drw => cases h; exact congrArg Host.Outcome.next (s.withRange_withStack stack _ _ _ rfl)
  | ldVxK =>
    simp only [exec, execLdVxK] at h ⊢
    rw [show (s.withStack stack).leastKey = s.leastKey from rfl]
    cases hk : s.leastKey with
    | none | some k => rw [hk] at h; cases h; rfl
  | _ => cases h; rfl

end Commutes

/-! ### CALL and RETURN -/

theorem SameButStale.setPc {s s' : State} (h : SameButStale s s') (w : Word) :
    SameButStale (s.setPc w) (s'.setPc w) := by
  obtain ⟨stack, hlive, rfl⟩ := sameButStale_iff.mp h
  exact ⟨rfl, hlive⟩

/-- R27: a push succeeds in both states alike; the entry it makes live is the same in both. -/
theorem State.push_withStack {s t : State} {stack : Vector Word 16} {w : Word} (hlive : s.LiveIn stack)
    (h : s.push w = some t) : ∃ t', (s.withStack stack).push w = some t' ∧ SameButStale t t' := by
  obtain ⟨hs, rfl⟩ := s.push_some t w h
  refine ⟨_, State.push_of_lt (s := s.withStack stack) w hs, rfl, fun k hk => ?_⟩
  have hk : k.val < s.sp.val + 1 := hk
  obtain heq | hne := eq_or_ne s.sp.val k.val
  · simp [State.withStack, heq]
  · simpa [State.withStack, Vector.getElem_set_ne, hne] using hlive k (by omega)

/-- R27: a pop succeeds in both states alike and takes the same entry, which was live. -/
theorem State.pop_withStack {s t : State} {stack : Vector Word 16} {w : Word} (hlive : s.LiveIn stack)
    (h : s.pop = some (w, t)) : ∃ t', (s.withStack stack).pop = some (w, t') ∧ SameButStale t t' := by
  obtain ⟨hs, rfl, rfl⟩ := s.pop_some t w h
  have hsp := s.sp.isLt
  have htop : stack[s.sp.val - 1] = s.stack[s.sp.val - 1] :=
    hlive ⟨s.sp.val - 1, by omega⟩ (Nat.sub_one_lt_of_lt hs)
  refine ⟨{ s.withStack stack with sp := ⟨s.sp.val - 1, by omega⟩ }, ?_, rfl,
    fun k hk => hlive k (hk.trans (Nat.sub_one_lt_of_lt hs))⟩
  exact (State.pop_of_pos (s := s.withStack stack) hs).trans (congrArg (fun e => some (e, _)) htop)

theorem exec_call_withStack {s t : State} {stack : Vector Word 16} {addr : Addr} (hlive : s.LiveIn stack)
    (h : exec (.call addr) s = .next t) :
    ∃ t', exec (.call addr) (s.withStack stack) = .next t' ∧ SameButStale t t' := by
  cases hp : s.push s.pc with
  | none =>
    have hsp := (s.push_none s.pc).mp hp
    rw [exec_call_overflow hsp] at h
    cases h
    exact ⟨_, exec_call_overflow hsp, rfl, hlive⟩
  | some u =>
    rw [exec_call_of_push hp] at h
    cases h
    obtain ⟨u', hp', hu⟩ := State.push_withStack hlive hp
    exact ⟨_, exec_call_of_push hp', hu.setPc _⟩

theorem exec_ret_withStack {s t : State} {stack : Vector Word 16} {x : RegIdx} (hlive : s.LiveIn stack)
    (h : exec (.ret x) s = .next t) :
    ∃ t', exec (.ret x) (s.withStack stack) = .next t' ∧ SameButStale t t' := by
  cases hp : s.pop with
  | none =>
    have hsp := s.pop_none.mp hp
    rw [exec_ret_underflow hsp] at h
    cases h
    exact ⟨_, exec_ret_underflow hsp, rfl, hlive⟩
  | some p =>
    rw [exec_ret_of_pop hp] at h
    cases h
    obtain ⟨u', hp', hu⟩ := State.pop_withStack hlive hp
    exact ⟨_, exec_ret_of_pop hp', hu.setPc _⟩

/-! ### The obligation -/

/-- R26: an instruction leads two states that differ in stale entries alone to two such states; one that is
neither CALL nor RETURN leaves `sp` and the stack as they are. -/
theorem exec_sameButStale {i : Instr} {s s' t : State} (hs : SameButStale s s') (h : exec i s = .next t) :
    ∃ t', exec i s' = .next t' ∧ SameButStale t t' := by
  obtain ⟨stack, hlive, rfl⟩ := sameButStale_iff.mp hs
  by_cases hcall : ∃ addr, i = .call addr
  · obtain ⟨addr, rfl⟩ := hcall
    exact exec_call_withStack hlive h
  by_cases hret : ∃ x, i = .ret x
  · obtain ⟨x, rfl⟩ := hret
    exact exec_ret_withStack hlive h
  · push Not at hcall hret
    obtain ⟨-, -, hstack, hsp, -⟩ := eachFieldHasOnlyItsWriters i s t h
    have hlive' : t.LiveIn stack := by
      rw [State.LiveIn, hstack hcall, hsp fun addr x => ⟨hcall addr, hret x⟩]
      exact hlive
    exact ⟨_, s.exec_withStack stack hcall hret h, sameButStale_iff.mpr ⟨stack, hlive', rfl⟩⟩

/-- Settles O47: the fetch, the advance and both faults are blind to the stack; an instruction looks at live
entries alone. -/
theorem staleStackEntriesAreUnobservable : Obligations.StaleStackEntriesAreUnobservable := by
  intro s s' t hs h
  obtain ⟨stack, hlive, rfl⟩ := sameButStale_iff.mp hs
  have hfetch : (s.withStack stack).fetch = s.fetch := rfl
  obtain ⟨hrun, ⟨a, hf, rfl⟩ | ⟨opcode, e, hf, hd, rfl⟩ | ⟨opcode, i, hf, hd, hx⟩⟩ := (step_next_iff s t).mp h
  · exact ⟨(s.fetchFault a).withStack stack,
      (step_next_iff ..).mpr ⟨hrun, .inl ⟨a, hfetch.trans hf, rfl⟩⟩, rfl, hlive⟩
  · refine ⟨(s.advance.unknown opcode).withStack stack, (step_next_iff ..).mpr
      ⟨hrun, .inr (.inl ⟨opcode, e, hfetch.trans hf, hd, (s.advance.unknown_withStack stack opcode).symm⟩)⟩, ?_⟩
    obtain ⟨-, heq⟩ | ⟨-, heq⟩ := s.advance.unknown_cases opcode
    all_goals rw [heq]; exact ⟨rfl, hlive⟩
  · obtain ⟨t', hx', ht⟩ := exec_sameButStale (hs.setPc (s.pc + 2)) hx
    exact ⟨t', (step_next_iff ..).mpr ⟨hrun, .inr (.inr ⟨opcode, i, hfetch.trans hf, hd, hx'⟩)⟩, ht⟩

end Sys2Proof.Machine
end

section
/-! PROOF. The register block moves (43_index_memory.md R154, R155): a block store and a block load, by the two
answers of the bounds check. -/

namespace Sys2Proof.Machine

/-! ### The registers of a block -/

theorem State.length_regsThrough (s : State) (x : RegIdx) : (s.regsThrough x).length = x.val + 1 := by
  have := x.isLt
  simp only [State.regsThrough, List.length_take, Vector.length_toList]
  omega

/-- R154: what is read back after `V[0]`..`V[x]` were stored at `base`. -/
theorem State.load_storeBytes_regsThrough (s : State) {base : Nat} {k x : RegIdx} (hk : k ≤ x)
    (hm : Memory.wf s.font s.mem) (hbase : base + (x.val + 1) ≤ Config.memSize) :
    (s.storeBytes base (s.regsThrough x)).load (base + k.val) = s.v[k] := by
  have hlen := s.length_regsThrough x
  have hk : k.val ≤ x.val := hk
  rw [s.load_storeBytes_at base k.val (s.regsThrough x) (by omega) hm (by omega)]
  simp [State.regsThrough]

/-- R155: a block load changes the registers of the block alone. -/
theorem State.frame_loadRegs (s : State) (base : Nat) (x : RegIdx) :
    Frame (((List.finRange 16).filter (· ≤ x)).map Component.reg) s (s.loadRegs base x) := by
  intro c hc
  cases c with
  | reg k =>
    have hk : ¬ k ≤ x := by simpa using hc
    exact (s.getV_loadRegs base x k).trans (if_neg hk)
  | _ => simp [Agrees, State.load]

/-! ### The two instructions by the answer of the bounds check -/

theorem exec_ldMemVx_of_le {x : RegIdx} {s : State} (h : s.i.toNat + (x.val + 1) ≤ Config.memSize) :
    exec (.ldMemVx x) s = .next (s.storeBytes s.i.toNat (s.regsThrough x)) :=
  congrArg Host.Outcome.next (s.withRange_of_le (.ldMemVx x) _ h)

theorem exec_ldMemVx_of_lt {x : RegIdx} {s : State} (h : Config.memSize < s.i.toNat + (x.val + 1)) :
    exec (.ldMemVx x) s = .next (s.raise
      (.memoryOutOfRange (max s.i.toNat Config.memSize) (some (encode (.ldMemVx x))) s.pcFetch)) :=
  congrArg Host.Outcome.next (s.withRange_of_lt (.ldMemVx x) _ (Nat.succ_pos _) h)

theorem exec_ldVxMem_of_le {x : RegIdx} {s : State} (h : s.i.toNat + (x.val + 1) ≤ Config.memSize) :
    exec (.ldVxMem x) s = .next (s.loadRegs s.i.toNat x) :=
  congrArg Host.Outcome.next (s.withRange_of_le (.ldVxMem x) _ h)

theorem exec_ldVxMem_of_lt {x : RegIdx} {s : State} (h : Config.memSize < s.i.toNat + (x.val + 1)) :
    exec (.ldVxMem x) s = .next (s.raise
      (.memoryOutOfRange (max s.i.toNat Config.memSize) (some (encode (.ldVxMem x))) s.pcFetch)) :=
  congrArg Host.Outcome.next (s.withRange_of_lt (.ldVxMem x) _ (Nat.succ_pos _) h)

/-! ### The obligations -/

/-- Settles O31: the last address decides the bounds check; the store is one block store of `V[0]`..`V[x]`. -/
theorem storeRegistersCopiesInclusiveOrFaults : Obligations.StoreRegistersCopiesInclusiveOrFaults := by
  intro x s
  refine ⟨decode_encode (.ldMemVx x) rfl, fun hi hm => ?_,
    fun hi => exec_ldMemVx_of_lt (Nat.add_lt_add_right hi 1)⟩
  have hfit : s.i.toNat + (x.val + 1) ≤ Config.memSize := Nat.add_le_add_right hi 1
  have hframe := s.frameStore_storeBytes s.i.toNat (s.regsThrough x)
  rw [s.length_regsThrough x] at hframe
  exact ⟨_, exec_ldMemVx_of_le hfit, fun k hk => s.load_storeBytes_regsThrough hk hm hfit, hframe⟩

/-- Settles O32: the last address decides the bounds check; the load is one block load. -/
theorem loadRegistersCopiesInclusiveOrFaults : Obligations.LoadRegistersCopiesInclusiveOrFaults := by
  intro x s
  refine ⟨decode_encode (.ldVxMem x) rfl, fun hi => ?_,
    fun hi => exec_ldVxMem_of_lt (Nat.add_lt_add_right hi 1)⟩
  exact ⟨_, exec_ldVxMem_of_le (Nat.add_le_add_right hi 1),
    fun k hk => (s.getV_loadRegs s.i.toNat x k).trans (if_pos hk), s.frame_loadRegs s.i.toNat x⟩

/-- Settles O33: the load reads the block from the same `I`, which the store leaves, and finds the stored
registers there. -/
theorem storedRegistersLoadBack : Obligations.StoredRegistersLoadBack := by
  intro x s t v hm hi ht
  have hfit : s.i.toNat + (x.val + 1) ≤ Config.memSize := Nat.add_le_add_right hi 1
  obtain rfl : s.storeBytes s.i.toNat (s.regsThrough x) = t := by simpa [exec_ldMemVx_of_le hfit] using ht
  have hindex : (s.storeBytes s.i.toNat (s.regsThrough x)).i = s.i := s.storeBytes_i ..
  refine ⟨_, exec_ldVxMem_of_le (by simpa only [hindex] using hfit), fun k => ?_⟩
  refine (State.getV_loadRegs _ _ x k).trans ?_
  split
  · next hk =>
    simp only [hindex]
    exact s.load_storeBytes_regsThrough hk hm hfit
  · rfl

end Sys2Proof.Machine
end

section
/-! PROOF. The display (44_display.md R170 to R172): the loops of DRAW-SPRITE toggle a list of distinct cells,
so each cell is XORed once with the sprite bit that wraps onto it. -/

namespace Sys2Proof.Machine

/-! ### Toggling a list of cells -/

/-- One toggle of R171's loops: the cell is XORed, and erasing a set cell is a collision. -/
def toggleCell (acc : Display × Bool) (cell : Fin 64 × Fin 32) : Display × Bool :=
  (acc.1.flip cell.1 cell.2, acc.2 || acc.1.cell cell.1 cell.2)

/-- Toggling distinct cells XORs each of them once. -/
theorem cell_foldl_toggleCell {cells : List (Fin 64 × Fin 32)} (hcells : cells.Nodup)
    (acc : Display × Bool) (c : Fin 64) (r : Fin 32) :
    (cells.foldl toggleCell acc).1.cell c r = (acc.1.cell c r ^^ decide ((c, r) ∈ cells)) := by
  induction cells generalizing acc with
  | nil => simp
  | cons p cells ih =>
    obtain ⟨hp, hcells⟩ := List.nodup_cons.mp hcells
    rw [List.foldl_cons, ih hcells, toggleCell, Display.cell_flip]
    by_cases heq : (c, r) = p
    · subst heq
      simp [hp]
    · have hne : ¬(p.1 = c ∧ p.2 = r) := fun h => heq (Prod.ext h.1.symm h.2.symm)
      simp [heq, hne]

/-- Toggling distinct cells collides exactly where one of them was set at the start. -/
theorem collision_foldl_toggleCell {cells : List (Fin 64 × Fin 32)} (hcells : cells.Nodup)
    (acc : Display × Bool) :
    (cells.foldl toggleCell acc).2 = true ↔
      acc.2 = true ∨ ∃ c r, acc.1.cell c r = true ∧ (c, r) ∈ cells := by
  induction cells generalizing acc with
  | nil => simp
  | cons p cells ih =>
    obtain ⟨hp, hcells⟩ := List.nodup_cons.mp hcells
    have hrest : ∀ c r, (c, r) ∈ cells → (acc.1.flip p.1 p.2).cell c r = acc.1.cell c r := fun c r hmem => by
      have hne : ¬(p.1 = c ∧ p.2 = r) := fun h =>
        hp ((Prod.ext h.1 h.2 : p = (c, r)) ▸ hmem)
      rw [Display.cell_flip, if_neg hne]
    rw [List.foldl_cons, ih hcells]
    simp only [toggleCell, Bool.or_eq_true, List.mem_cons, or_assoc]
    refine or_congr_right ⟨?_, ?_⟩
    · rintro (hset | ⟨c, r, hset, hmem⟩)
      · exact ⟨p.1, p.2, hset, .inl rfl⟩
      · exact ⟨c, r, hrest c r hmem ▸ hset, .inr hmem⟩
    · rintro ⟨c, r, hset, rfl | hmem⟩
      · exact .inl hset
      · exact .inr ⟨c, r, (hrest c r hmem).trans hset, hmem⟩

/-! ### The cells of a sprite -/

/-- The cell that pixel (`i`, `j`) of a sprite at (`cx`, `cy`) wraps onto (R172). -/
def wrappedCell (cx cy i j : Nat) : Fin 64 × Fin 32 := (Fin.ofNat 64 (cx + j), Fin.ofNat 32 (cy + i))

/-- The cells under the set bits of a row of 8 pixels, from the left (R171, R172). -/
def rowCells (cx cy i : Nat) (row : Byte) : List (Fin 64 × Fin 32) :=
  ((List.range 8).filter fun j => row.getLsbD (7 - j)).map (wrappedCell cx cy i)

/-- The cells under the set bits of the `n` rows at `I`, in the order of the loops (R171). -/
def State.spriteCells (s : State) (cx cy n : Nat) : List (Fin 64 × Fin 32) :=
  (List.range n).flatMap fun i => rowCells cx cy i (s.load (s.dataAddress i))

theorem xorRow_eq_foldl (cx cy i : Nat) (row : Byte) (acc : Display × Bool) :
    xorRow cx cy i row acc = (rowCells cx cy i row).foldl toggleCell acc := by
  rw [rowCells, List.foldl_map, List.foldl_filter]
  rfl

/-- R171: the loops toggle the sprite's cells one after the other. -/
theorem State.xorSprite_eq_foldl (s : State) (cx cy n : Nat) :
    s.xorSprite cx cy n = (s.spriteCells cx cy n).foldl toggleCell (s.display, false) := by
  simp only [State.xorSprite, State.spriteCells, List.foldl_flatMap, xorRow_eq_foldl]

/-- R172: two pixels of a sprite, at most 8 wide and 32 high, never wrap onto the same cell. -/
theorem wrappedCell_inj {cx cy i i' j j' : Nat} (hi : i < 32) (hi' : i' < 32) (hj : j < 8) (hj' : j' < 8)
    (h : wrappedCell cx cy i j = wrappedCell cx cy i' j') : i = i' ∧ j = j' := by
  simp only [wrappedCell, Prod.mk.injEq, Fin.ext_iff, Fin.val_ofNat] at h
  omega

theorem nodup_rowCells (cx cy i : Nat) (row : Byte) (hi : i < 32) : (rowCells cx cy i row).Nodup := by
  refine List.Nodup.map_on (fun j hj j' hj' h => ?_) (List.nodup_range.filter _)
  simp only [List.mem_filter, List.mem_range] at hj hj'
  exact (wrappedCell_inj hi hi hj.1 hj'.1 h).2

theorem mem_rowCells {cx cy i : Nat} {row : Byte} {p : Fin 64 × Fin 32} :
    p ∈ rowCells cx cy i row ↔ ∃ j < 8, row.getLsbD (7 - j) = true ∧ wrappedCell cx cy i j = p := by
  simp [rowCells, and_assoc]

/-- R171, R172: a sprite of at most 32 rows toggles no cell twice. -/
theorem State.nodup_spriteCells (s : State) (cx cy : Nat) {n : Nat} (hn : n ≤ 32) :
    (s.spriteCells cx cy n).Nodup := by
  refine List.nodup_flatMap.mpr ⟨fun i hi => nodup_rowCells _ _ _ _ ?_, ?_⟩
  · exact (List.mem_range.mp hi).trans_le hn
  · refine (List.nodup_range (n := n)).imp_of_mem fun {i i'} hi hi' hne p hp hp' => ?_
    obtain ⟨j, hj, -, rfl⟩ := mem_rowCells.mp hp
    obtain ⟨j', hj', -, h⟩ := mem_rowCells.mp hp'
    rw [List.mem_range] at hi hi'
    exact hne (wrappedCell_inj (by omega) (by omega) hj' hj h).1.symm

/-- R172: the toggled cells are those the sprite bits wrap onto. -/
theorem State.mem_spriteCells (s : State) (cx cy n : Nat) (c : Fin 64) (r : Fin 32) :
    (c, r) ∈ s.spriteCells cx cy n ↔ spriteBit s cx cy n c r = true := by
  simp only [State.spriteCells, List.mem_flatMap, mem_rowCells, wrappedCell, spriteBit, List.any_eq_true,
    List.mem_range, Bool.and_eq_true, decide_eq_true_eq, Prod.mk.injEq, Fin.ext_iff, Fin.val_ofNat,
    State.dataAddress, and_assoc, and_comm]

/-! ### The closed form of the loops -/

theorem State.cell_xorSprite (s : State) (cx cy : Nat) {n : Nat} (hn : n ≤ 32) (c : Fin 64) (r : Fin 32) :
    (s.xorSprite cx cy n).1.cell c r = (s.display.cell c r ^^ spriteBit s cx cy n c r) := by
  rw [s.xorSprite_eq_foldl, cell_foldl_toggleCell (s.nodup_spriteCells cx cy hn)]
  simp [s.mem_spriteCells]

theorem State.collision_xorSprite (s : State) (cx cy : Nat) {n : Nat} (hn : n ≤ 32) :
    (s.xorSprite cx cy n).2 = true ↔
      ∃ c r, s.display.cell c r = true ∧ spriteBit s cx cy n c r = true := by
  rw [s.xorSprite_eq_foldl, collision_foldl_toggleCell (s.nodup_spriteCells cx cy hn)]
  simp [s.mem_spriteCells]

/-! ### The frame of a draw -/

theorem FrameDraw.setDisplay (s : State) (d : Display) : FrameDraw s (s.setDisplay d) := by
  intro c _ hdirty hcell
  cases c with
  | dirty => exact absurd rfl hdirty
  | cell col row => exact absurd rfl (hcell col row)
  | _ => rfl

theorem FrameDraw.setVf {s t : State} (h : FrameDraw s t) (b : Byte) : FrameDraw s (t.setV vf b) := by
  intro c hreg hdirty hcell
  have hst := h c hreg hdirty hcell
  cases c with
  | reg k =>
    have hk : vf ≠ k := fun hk => hreg (hk ▸ rfl)
    exact ((t.getV_setV vf k b).trans (if_neg hk)).trans hst
  | _ => exact hst

/-! ### DRAW-SPRITE by the answer of the bounds check -/

/-- R171: what a draw that accesses memory in range leaves. -/
def State.draw (s : State) (x y : RegIdx) (n : Nibble) : State :=
  let drawn := s.xorSprite s.v[x].toNat s.v[y].toNat n.toNat
  (s.setDisplay drawn.1).setV vf (flagByte drawn.2)

theorem exec_drw_of_le {x y : RegIdx} {n : Nibble} {s : State}
    (h : n.toNat = 0 ∨ s.i.toNat + n.toNat ≤ 0x1000) :
    exec (.drw x y n) s = .next (s.draw x y n) := by
  have hbad : lowestBad (s.dataAddress 0) n.toNat = none := (lowestBad_none ..).mpr h
  simp only [exec, execDrw, State.withRange, hbad]
  rfl

theorem exec_drw_of_lt {x y : RegIdx} {n : Nibble} {s : State} (hn : 0 < n.toNat)
    (h : 0x1000 < s.i.toNat + n.toNat) :
    exec (.drw x y n) s = .next (s.raise
      (.memoryOutOfRange (max s.i.toNat 0x1000) (some (encode (.drw x y n))) s.pcFetch)) :=
  congrArg Host.Outcome.next (s.withRange_of_lt (.drw x y n) _ hn h)

theorem flagByte_eq_zero_or_one (b : Bool) : flagByte b = 0 ∨ flagByte b = 1 := by
  cases b <;> simp [flagByte]

theorem flagByte_eq_one_iff (b : Bool) : flagByte b = 1 ↔ b = true := by
  cases b <;> simp [flagByte]

/-! ### The obligations -/

/-- Settles O34: the blank display replaces the old one. -/
theorem clearScreenBlanksEveryCell : Obligations.ClearScreenBlanksEveryCell := fun x s =>
  ⟨decode_encode (.cls x) rfl, _, rfl, Display.cell_blank, rfl, rfl, FrameDraw.setDisplay s Display.blank⟩

/-- Settles O35: by the closed form of the loops, for the at most 15 rows of an opcode. -/
theorem drawSpriteXorsTheWrappedSpriteOrFaults : Obligations.DrawSpriteXorsTheWrappedSpriteOrFaults := by
  intro x y n s
  have hn : n.toNat ≤ 32 := by have := n.isLt; omega
  refine ⟨decode_encode (.drw x y n) rfl, fun hi => ?_, fun hpos hi => exec_drw_of_lt hpos (by omega)⟩
  have hvf : (s.draw x y n).v[vf] = _ := State.getV_setV_self ..
  refine ⟨_, exec_drw_of_le (by omega), fun c r => s.cell_xorSprite _ _ hn c r, ?_, ?_, rfl,
    (FrameDraw.setDisplay s _).setVf _⟩
  · rw [hvf]
    exact flagByte_eq_zero_or_one _
  · rw [hvf, flagByte_eq_one_iff]
    exact s.collision_xorSprite _ _ hn

/-- R171, R172: a draw leaves the sprite where it was: neither its bytes nor its coordinates change, these
unless one of them is VF. -/
theorem FrameDraw.spriteBit_eq {s t : State} (h : FrameDraw s t) {x y : RegIdx} (hx : x ≠ vf) (hy : y ≠ vf)
    (n : Nat) : spriteBit t t.v[x].toNat t.v[y].toNat n = spriteBit s s.v[x].toNat s.v[y].toNat n := by
  have hi : t.i = s.i := h .index nofun nofun nofun
  have hvx : t.v[x] = s.v[x] := h (.reg x) (by simpa using hx) nofun nofun
  have hvy : t.v[y] = s.v[y] := h (.reg y) (by simpa using hy) nofun nofun
  have hload : ∀ a, t.load a = s.load a := fun a => h (.byte a) nofun nofun nofun
  funext c r
  simp only [spriteBit, hi, hvx, hvy, hload]

/-- Settles O36: the first draw leaves the coordinates and the sprite, so the second XORs the same cells; on a
blank display the first meets no set cell and the second meets every cell of the sprite. -/
theorem drawingTwiceErases : Obligations.DrawingTwiceErases := by
  intro x y n p s t hx hy hi ht
  obtain ⟨-, hdraw, -⟩ := drawSpriteXorsTheWrappedSpriteOrFaults x y n s
  obtain ⟨t', ht', hcell, hflag, hvf, -, hframe⟩ := hdraw hi
  obtain rfl : t' = t := Host.Outcome.next.inj (ht'.symm.trans ht)
  have hindex : t'.i = s.i := hframe .index nofun nofun nofun
  have hsprite : spriteBit { t' with pc := p } t'.v[x].toNat t'.v[y].toNat n.toNat = _ :=
    hframe.spriteBit_eq hx hy n.toNat
  obtain ⟨-, hdraw', -⟩ := drawSpriteXorsTheWrappedSpriteOrFaults x y n { t' with pc := p }
  rw [hsprite] at hdraw'
  obtain ⟨u, hu, hcell', -, hvf', -, -⟩ := hdraw' (by simpa only [hindex] using hi)
  refine ⟨u, hu, Display.ext _ _ fun c r => ?_, fun hblank hset => ⟨?_, hvf'.mpr ?_⟩⟩
  · rw [hcell', hcell, Bool.xor_assoc, Bool.xor_self, Bool.xor_false]
  · refine hflag.resolve_right fun hone => ?_
    obtain ⟨c, r, hon, -⟩ := hvf.mp hone
    simp [hblank] at hon
  · obtain ⟨c, r, hbit⟩ := hset
    exact ⟨c, r, by rw [hcell, hblank, hbit]; rfl, hbit⟩

end Sys2Proof.Machine
end

section
/-! PROOF. WAIT-FOR-KEY (45_keypad_timers.md R182), and the steps that leave the state as it was: a waiting one
and one at rest (70_reset_and_hazards.md R260). -/

namespace Sys2Proof.Machine

/-! ### The least pressed key -/

theorem State.leastKey_eq_some {s : State} {k : Fin 16} (hk : s.key k = true)
    (hbelow : ∀ j < k, s.key j = false) : s.leastKey = some k := by
  cases hleast : s.leastKey with
  | none => exact absurd (s.leastKey_none.mp hleast k) (by simp [hk])
  | some l =>
    obtain ⟨hl, hbelow'⟩ := s.leastKey_some l hleast
    obtain hlt | rfl | hlt := lt_trichotomy l k
    · exact absurd (hbelow l hlt) (by simp [hl])
    · rfl
    · exact absurd (hbelow' k hlt) (by simp [hk])

theorem exec_ldVxK_of_some {x : RegIdx} {s : State} {k : Fin 16} (h : s.leastKey = some k) :
    exec (.ldVxK x) s = .next (s.setV x (BitVec.ofNat 8 k.val)) := by
  simp only [exec, execLdVxK, h]

theorem exec_ldVxK_of_none {x : RegIdx} {s : State} (h : s.leastKey = none) :
    exec (.ldVxK x) s = .next (s.setPc (s.pc - 2)) := by
  simp only [exec, execLdVxK, h]

/-- Settles O38: by what the search for the least pressed key answers; a key number fits a byte. -/
theorem waitForKeyTakesTheLeastPressedKey : Obligations.WaitForKeyTakesTheLeastPressedKey := by
  intro x s
  refine ⟨decode_encode (.ldVxK x) rfl, fun k hk hbelow => ?_,
    fun hnone => exec_ldVxK_of_none (s.leastKey_none.mpr hnone)⟩
  refine ⟨_, exec_ldVxK_of_some (State.leastKey_eq_some hk hbelow), ?_, (Frame.refl [] s).setV x _⟩
  refine (congrArg BitVec.toNat (s.getV_setV_self x _)).trans (Nat.mod_eq_of_lt ?_)
  exact k.isLt.trans (by decide)

/-! ### Steps that change nothing -/

/-- A step that leaves the state as it was is all that a run in a silent environment ever makes. -/
theorem run_of_step_eq (M : Host.Core) {s : M.State} (h : M.step s = .next s) (n : Nat) :
    M.run n s = .next s := by
  induction n with
  | zero => rfl
  | succ n ih => rw [Host.Core.run, h]; exact ih

/-- Settles O39: with no key pressed the instruction takes the advance of `pc` back. -/
theorem waitingStepLeavesTheStateAsItWas : Obligations.WaitingStepLeavesTheStateAsItWas := by
  intro x s hs hpc hd hkeys
  have hstep : step s = .next s := by
    rw [step_of_fetch_decode hs (s.fetch_ok hpc) hd, exec_ldVxK_of_none (s.advance.leastKey_none.mpr hkeys)]
    exact congrArg (fun w => Host.Outcome.next (s.setPc w)) s.pcFetch_advance
  exact ⟨stepOutput_ok hstep hs (s.fetch_ok hpc) hd, run_of_step_eq core hstep⟩

/-- Settles O53: the JUMP to itself leaves the state as it was. -/
theorem atRestNothingChanges : Obligations.AtRestNothingChanges := fun _ n h => run_of_step_eq core h.step_eq n

end Sys2Proof.Machine
end

section
/-! PROOF. Faults are precise (60_exceptions.md R211), and the unknown opcode (R201, R209). -/

namespace Sys2Proof.Machine

/-- R208, R211: an instruction that latches a fault does nothing else. -/
theorem Effect.eq_raise {i : Instr} {s t : State} {r : FaultRecord} (h : Effect i s t) (hs : s.fault = none)
    (ht : t.fault = some r) : t = s.raise r := by
  cases h with
  | fault r' =>
    obtain rfl : r' = r := Option.some.inj ht
    rfl
  | skip taken => exact absurd ht (State.fault_ne_some hs (s.skipIf_fault taken))
  | store base bytes => exact absurd ht (State.fault_ne_some hs (s.storeBytes_fault base bytes))
  | call addr u _ hu => exact absurd ht (State.fault_ne_some hs ((u.setPc_fault _).trans (State.push_fault hu)))
  | ret x target u _ hu =>
    exact absurd ht (State.fault_ne_some hs ((u.setPc_fault _).trans (State.pop_fault hu)))
  | registers | jump | wait | index | delay | sound | draw | paint =>
    exact absurd ht (State.fault_ne_some hs rfl)

/-- R209: an unknown opcode that latches a fault does nothing else. -/
theorem State.unknown_eq_raise {s : State} {opcode : Word} {r : FaultRecord} (hs : s.fault = none)
    (ht : (s.unknown opcode).fault = some r) : s.unknown opcode = s.raise r := by
  obtain ⟨-, heq⟩ | ⟨-, heq⟩ := s.unknown_cases opcode <;> rw [heq] at ht ⊢
  · exact absurd ht (State.fault_ne_some hs rfl)
  · rw [Option.some.inj ht]

/-- Settles O41: a fetch past the end latches before the advance; an unknown opcode and an instruction after
it. -/
theorem fatalFaultsArePrecise : Obligations.FatalFaultsArePrecise := by
  intro s t r hs h ht
  obtain ⟨-, ⟨a, hf, rfl⟩ | ⟨opcode, e, hf, -, rfl⟩ | ⟨opcode, i, hf, -, hx⟩⟩ := (step_next_iff s t).mp h
  · refine ⟨fun hpc => absurd ((s.fetch_ok hpc).symm.trans hf) nofun, fun _ => ?_⟩
    rw [← Option.some.inj ht]
    rfl
  · have hpc := s.pc_le_of_fetch_ok opcode hf
    exact ⟨fun _ => State.unknown_eq_raise hs ht, fun hlt => absurd hpc (Nat.not_le.mpr hlt)⟩
  · have hpc := s.pc_le_of_fetch_ok opcode hf
    exact ⟨fun _ => (exec_effect i s.advance t hx).eq_raise hs ht, fun hlt => absurd hpc (Nat.not_le.mpr hlt)⟩

/-- R201: a step of an unknown opcode that latches no fault returns its report. -/
theorem stepOutput_unknown {s t : State} {opcode : Word} {e : DecodeError} (h : step s = .next t)
    (ht : t.fault = none) (hf : s.fetch = .ok opcode) (hd : decode opcode = .error e) :
    stepOutput s = some (.unknown opcode s.pc) := by
  simp only [stepOutput, h, ht, hf, hd]

/-- Settles O9: of the three ways to a next state it is the unknown opcode after the advance, in the two
modes. -/
theorem unknownOpcodeIsReportedOrFatal : Obligations.UnknownOpcodeIsReportedOrFatal := by
  intro s e hs hpc opcode hd
  have hf : s.fetch = .ok opcode := s.fetch_ok hpc
  have hstep : step s = .next (s.advance.unknown opcode) :=
    (step_next_iff s _).mpr ⟨hs, .inr (.inl ⟨opcode, e, hf, hd, rfl⟩)⟩
  refine ⟨fun hmode => ?_, fun hmode => ?_⟩
  · have hreport : step s = .next s.advance := hstep.trans (congrArg _ (if_neg (by simp [hmode])))
    exact ⟨hreport, stepOutput_unknown hreport hs hf hd⟩
  · have hfatal : step s = .next (s.advance.raise (.unknownOpcode opcode s.pc)) := by
      rw [hstep, State.unknown, State.pcFetch_advance, if_pos (show s.advance.strictUnknown = true from hmode)]
    exact ⟨hfatal, stepOutput_fatal hfatal rfl⟩

end Sys2Proof.Machine
end

section
/-! PROOF. The bytes a ROM load leaves (70_reset_and_hazards.md R242), and runs in a silent environment
(R260). -/

namespace Sys2Proof.Machine

/-- Settles O55: the load is one block store, of the image cut after 3584 bytes, which ends within memory. -/
theorem romLoadCopiesVerbatimFrom200 : Obligations.RomLoadCopiesVerbatimFrom200 := by
  intro s rom hm
  have hlen : (rom.take Config.romMax).length = min rom.length 3584 := by
    rw [List.length_take, Nat.min_comm]
  have hframe := s.frameStore_storeBytes Config.romStart (rom.take Config.romMax)
  rw [hlen] at hframe
  refine ⟨fun k hk hmax => ?_, hframe⟩
  have hfit : 0x200 + (rom.take Config.romMax).length ≤ 4096 := by omega
  have hk' : k < (rom.take Config.romMax).length := by omega
  exact (s.load_storeBytes_at 0x200 k _ hk' hm hfit).trans List.getElem_take

/-- A run goes on from the state of its first step. -/
theorem run_succ_of_next (M : Host.Core) {s t : M.State} (h : M.step s = .next t) (n : Nat) :
    M.run (n + 1) s = M.run n t := by
  rw [Host.Core.run, h]

/-- A run ends with the outcome of its first step where that leads to no state. -/
theorem run_succ_of_stop (M : Host.Core) {s : M.State} {o : Host.Outcome M.State M.Fault M.Refusal}
    (h : M.step s = o) (ho : ∀ t, o ≠ .next t) (n : Nat) : M.run (n + 1) s = o := by
  rw [Host.Core.run, h]
  cases o with
  | next t => exact absurd rfl (ho t)
  | fault | refused => rfl

/-- R260: a schedule of steps alone is a run of the core. -/
theorem State.runActions_replicate_step (n : Nat) (s : State) :
    s.runActions (List.replicate n .step) = core.run n s := by
  induction n generalizing s with
  | zero => rfl
  | succ n ih =>
    rw [List.replicate_succ]
    cases h : step s with
    | next t => exact (s.runActions_cons t .step _ h).trans ((ih t).trans (run_succ_of_next core h n).symm)
    | fault f | refused f =>
      rw [State.runActions, State.act_step, h]
      exact (run_succ_of_stop core h nofun n).symm

theorem stepCount_replicate_step (n : Nat) : stepCount (List.replicate n .step) = n := by
  simp [stepCount, List.countP_replicate, Action.isStep]

/-- Settles O60: the schedule is a run of the core, and a run without a latched fault at its end had none
before. -/
theorem afterStepsOfASilentRunIsTheCoreRun : Obligations.AfterStepsOfASilentRunIsTheCoreRun := by
  intro n start t hl
  rw [← State.runActions_replicate_step]
  constructor
  · rintro ⟨⟨-, -, hruns, hnone⟩, -⟩
    exact ⟨hruns, hnone _ List.prefix_rfl t hruns⟩
  · rintro ⟨hruns, ht⟩
    have hsteps : ∀ a ∈ List.replicate n Action.step, a.isLaunch = false := fun a ha =>
      List.eq_of_mem_replicate ha ▸ rfl
    exact ⟨RunFrom.of_running start t _ hl hsteps hruns ht, stepCount_replicate_step n⟩

end Sys2Proof.Machine
end

section
/-! PROOF. Which registers an instruction changes (10_state.md R21, R22). -/

namespace Sys2Proof.Machine

/-! ### The shared operations -/

theorem State.getV_setV_ne (s : State) {x k : RegIdx} (hk : k ≠ x) (b : Byte) :
    (s.setV x b).getV k = s.getV k :=
  (s.getV_setV x k b).trans (if_neg hk.symm)

theorem State.getV_withRange {s effect : State} {k : RegIdx} (i : Instr) (base n : Nat)
    (h : effect.getV k = s.getV k) : (s.withRange i base n effect).getV k = s.getV k := by
  obtain ⟨-, heq⟩ | ⟨a, -, heq⟩ := s.withRange_cases i base n effect <;> rw [heq]
  · exact h
  · rfl

theorem State.getV_skipIf (s : State) (taken : Bool) (k : RegIdx) : (s.skipIf taken).getV k = s.getV k := by
  simp [State.getV]

theorem State.getV_keySkip (s : State) (i : Instr) (x k : RegIdx) (pressed : Bool) :
    (s.keySkip i x pressed).getV k = s.getV k := by
  obtain ⟨j, -, heq⟩ | ⟨-, heq⟩ := s.keySkip_cases i x pressed <;> rw [heq]
  · exact s.getV_skipIf _ k
  · rfl

theorem State.getV_storeBytes (s : State) (base : Nat) (bytes : List Byte) (k : RegIdx) :
    (s.storeBytes base bytes).getV k = s.getV k := by
  simp [State.getV]

theorem State.getV_push {s t : State} {w : Word} (h : s.push w = some t) (k : RegIdx) :
    t.getV k = s.getV k := by
  obtain ⟨-, rfl⟩ := s.push_some t w h
  rfl

theorem State.getV_pop {s t : State} {w : Word} (h : s.pop = some (w, t)) (k : RegIdx) :
    t.getV k = s.getV k := by
  obtain ⟨-, -, rfl⟩ := s.pop_some t w h
  rfl

/-! ### The instructions -/

/-- R21: an instruction that does not name `k` as its destination and does not write it as the flag leaves
it. -/
theorem exec_getV_eq {i : Instr} {s t : State} {k : RegIdx} (hdest : isDestination k i = false)
    (hflag : k ≠ vf ∨ writesFlag i = false) (h : exec i s = .next t) : t.getV k = s.getV k := by
  cases i with
  | ldImm x | addImm x | ldReg x | orReg x | andReg x | xorReg x | ldVxDt x =>
    cases h
    exact s.getV_setV_ne (by simpa [isDestination] using hdest) _
  | rnd x => cases h; exact s.nextDraw.getV_setV_ne (by simpa [isDestination] using hdest) _
  | addReg x | sub x | shr x | subn x | shl x =>
    cases h
    have hk : k ≠ x := by simpa [isDestination] using hdest
    have hvf : k ≠ vf := by simpa [writesFlag] using hflag
    exact (s.getV_setResult x k _ _).trans ((if_neg hvf).trans (if_neg hk))
  | drw =>
    cases h
    exact State.getV_withRange _ _ _ (State.getV_setV_ne _ (by simpa [writesFlag] using hflag) _)
  | ldVxMem x =>
    cases h
    have hk : ¬ k ≤ x := by simpa [isDestination] using hdest
    exact State.getV_withRange _ _ _ ((s.getV_loadRegs _ x k).trans (if_neg hk))
  | ldBVx | ldMemVx => cases h; exact State.getV_withRange _ _ _ (s.getV_storeBytes _ _ k)
  | ldVxK x =>
    cases hleast : s.leastKey with
    | none => rw [exec_ldVxK_of_none hleast] at h; cases h; rfl
    | some j =>
      rw [exec_ldVxK_of_some hleast] at h
      cases h
      exact s.getV_setV_ne (by simpa [isDestination] using hdest) _
  | seImm | sneImm | seReg | sneReg => cases h; exact s.getV_skipIf _ k
  | skp | sknp => cases h; exact s.getV_keySkip _ _ k _
  | call =>
    cases hp : s.push s.pc with
    | none => rw [exec_call_overflow ((s.push_none _).mp hp)] at h; cases h; rfl
    | some u => rw [exec_call_of_push hp] at h; cases h; exact (State.getV_push hp k : u.getV k = s.getV k)
  | ret =>
    cases hp : s.pop with
    | none => rw [exec_ret_underflow (s.pop_none.mp hp)] at h; cases h; rfl
    | some p => rw [exec_ret_of_pop hp] at h; cases h; exact (State.getV_pop hp k : p.2.getV k = s.getV k)
  | cls | jp | jpV0 | ldI | ldDtVx | ldStVx | addIVx | ldFVx => cases h; rfl

/-- R22, R130 (h): an instruction that writes the flag and latches no fault leaves a flag value in VF. -/
theorem exec_getV_vf_eq_flagByte {i : Instr} {s t : State} (hflag : writesFlag i = true) (ht : t.fault = none)
    (h : exec i s = .next t) : ∃ b, t.getV vf = flagByte b := by
  cases i with
  | addReg | sub | shr | subn | shl => cases h; exact ⟨_, s.getV_setResult_vf ..⟩
  | drw x y n =>
    cases h
    obtain ⟨-, heq⟩ | ⟨a, -, heq⟩ := s.withRange_cases (.drw x y n) (s.dataAddress 0) n.toNat _
    · exact ⟨_, (congrArg (State.getV · vf) heq).trans (State.getV_setV_self ..)⟩
    · rw [heq] at ht
      cases ht
  | _ => cases hflag

/-- Settles O43: by the registers each instruction writes. -/
theorem registersChangeOnlyAsDestinationOrFlag : Obligations.RegistersChangeOnlyAsDestinationOrFlag := by
  intro i s t h
  refine ⟨fun k hdest hflag => exec_getV_eq hdest hflag h, fun hflag ht => ?_⟩
  obtain ⟨b, hb⟩ := exec_getV_vf_eq_flagByte hflag ht h
  exact (flagByte_eq_zero_or_one b).imp hb.trans hb.trans

end Sys2Proof.Machine
end

section
/-! PROOF. The ignored bits of an opcode (30_encoding.md R86), the shifts (42_alu.md R137, R139), the
instructions that are one write (R104, R121, R122, R151, R152), the tick (60_exceptions.md R217) and reset. -/

namespace Sys2Proof.Machine

/-! ### Ignored bits -/

/-- Settles O6: the meanings do not take the ignored field; RETURN and SKIP-IF-KEY-NOT-PRESSED take it for their
fault record alone. -/
theorem ignoredBitsChangeNoEffect : Obligations.IgnoredBitsChangeNoEffect := by
  intro s x x' y y' n n' nn nn'
  refine ⟨rfl, rfl, rfl, rfl, rfl, fun hsp => ?_, fun hx => ?_⟩
  · have hpop := State.pop_of_pos (s := s) (Nat.pos_of_ne_zero fun h => hsp (Fin.ext h))
    rw [exec_ret_of_pop hpop, exec_ret_of_pop hpop]
  · have hskip := fun i => State.keySkip_of_toNat_eq (k := ⟨s.v[x].toNat, Nat.lt_succ_of_le hx⟩) i false rfl
    exact congrArg Host.Outcome.next ((hskip (.sknp x nn)).trans (hskip (.sknp x nn')).symm)

/-! ### The shifts -/

theorem flagByte_toNat (b : Bool) : (flagByte b).toNat = b.toNat := by
  cases b <;> rfl

/-- A bit of a byte as a number. -/
theorem toNat_getLsbD (a : Byte) (j : Nat) : (a.getLsbD j).toNat = a.toNat / 2 ^ j % 2 := by
  rw [← BitVec.testBit_toNat, Nat.toNat_testBit]

/-- R137, R139, R41: what a shift leaves, its result and the bit it moves out as numbers. -/
theorem State.shift_writes (s : State) (x : RegIdx) {b : Byte} {flag : Bool} {m n : Nat}
    (hflag : flag.toNat = m) (hb : b.toNat = n) :
    ∃ t, (.next (s.setResult x b flag) : Host.Outcome State Fault Refusal) = .next t ∧ t.v[vf].toNat = m ∧
      (x ≠ vf → t.v[x].toNat = n) ∧ Frame [.reg x, .reg vf] s t :=
  ⟨_, rfl, (congrArg BitVec.toNat (s.getV_setResult_vf x b flag)).trans ((flagByte_toNat flag).trans hflag),
    fun hx => (congrArg BitVec.toNat (s.getV_setResult_self hx b flag)).trans hb, s.frame_setResult x b flag⟩

theorem shiftedRight_toNat (a : Byte) : (shiftedRight a).toNat = a.toNat / 2 := by
  have := a.isLt
  rw [shiftedRight, BitVec.toNat_ofNat, Nat.shiftRight_eq_div_pow]
  omega

theorem shiftedLeft_toNat (a : Byte) : (shiftedLeft a).toNat = a.toNat * 2 % 256 := by
  rw [shiftedLeft, BitVec.toNat_ofNat, Nat.shiftLeft_eq]

theorem toNat_getLsbD_zero (a : Byte) : (a.getLsbD 0).toNat = a.toNat % 2 := by
  rw [toNat_getLsbD, pow_zero, Nat.div_one]

theorem toNat_getLsbD_seven (a : Byte) : (a.getLsbD 7).toNat = a.toNat / 128 := by
  have := a.isLt
  rw [toNat_getLsbD]
  omega

/-- Settles O27: half with the low bit, double with the high bit; the flag is written last. -/
theorem shiftsMoveOneBitIntoVf : Obligations.ShiftsMoveOneBitIntoVf := fun x y s =>
  ⟨⟨decode_encode (.shr x y) rfl, s.shift_writes x (toNat_getLsbD_zero s.v[x]) (shiftedRight_toNat s.v[x])⟩,
    decode_encode (.shl x y) rfl, s.shift_writes x (toNat_getLsbD_seven s.v[x]) (shiftedLeft_toNat s.v[x])⟩

/-! ### Instructions that are one write -/

/-- Settles O14: one write to `pc`, of a sum that does not wrap. -/
theorem jumpWithOffsetAddsV0 : Obligations.JumpWithOffsetAddsV0 := fun addr s =>
  ⟨decode_encode (.jpV0 addr) rfl, _, rfl, zextAddr_add_zextByte_toNat addr s.v[0], (Frame.refl [] s).setPc _⟩

/-- Settles O21: one register write, of the sum modulo 256. -/
theorem addImmediateAddsWithoutFlag : Obligations.AddImmediateAddsWithoutFlag := fun x nn s =>
  ⟨decode_encode (.addImm x nn) rfl, _, rfl,
    (congrArg BitVec.toNat (s.getV_setV_self x _)).trans (sumByte_toNat s.v[x] nn),
    (Frame.refl [] s).setV x _⟩

/-- R122: a taken draw counts and changes nothing else. -/
theorem State.frame_nextDraw (s : State) : Frame [.draws] s s.nextDraw := by
  intro c hc
  cases c with
  | draws => exact absurd (List.mem_singleton_self _) hc
  | _ => rfl

/-- Settles O22: a draw and one register write; no bit outside the immediate survives the AND. -/
theorem randomAndMasksTheDraw : Obligations.RandomAndMasksTheDraw := by
  intro x nn s
  have hget : (s.nextDraw.setV x (Config.rand8 s.draws &&& nn)).v[x] = Config.rand8 s.draws &&& nn :=
    State.getV_setV_self ..
  refine ⟨decode_encode (.rnd x nn) rfl, _, rfl, hget, rfl, fun b hb => ?_, s.frame_nextDraw.setV x _⟩
  refine (congrArg (BitVec.getLsbD · b) hget).trans ?_
  rw [BitVec.getLsbD_and, hb, Bool.and_false]

theorem add_zextByte_toNat (w : Word) (b : Byte) : (w + zextByte b).toNat = (w.toNat + b.toNat) % 65536 := by
  rw [BitVec.toNat_add, zextByte_toNat]

/-- R152: five times a byte does not wrap. -/
theorem glyphAddress_toNat (b : Byte) :
    (BitVec.ofNat 16 (Config.glyphBytes * b.toNat)).toNat = 5 * b.toNat := by
  have hb := b.isLt
  refine (BitVec.toNat_ofNat ..).trans (Nat.mod_eq_of_lt ?_)
  show 5 * b.toNat < 65536
  omega

/-- Settles O29: each is one write to `I`. -/
theorem indexSumAndGlyphAddressWriteOnlyI : Obligations.IndexSumAndGlyphAddressWriteOnlyI := fun x s =>
  ⟨⟨decode_encode (.addIVx x) rfl, _, rfl, add_zextByte_toNat s.i s.v[x], (Frame.refl [] s).setI _⟩,
    decode_encode (.ldFVx x) rfl, _, rfl, glyphAddress_toNat s.v[x], (Frame.refl [] s).setI _⟩

/-! ### The tick and reset -/

/-- R217: a timer after a tick, as a number. -/
theorem ticked_toNat (b : Byte) : (if b = 0 then 0 else b - 1).toNat = b.toNat - 1 := by
  split
  · next h => rw [h]; rfl
  · next h => bv_omega

/-- R217: a tick changes the timers alone. -/
theorem State.frame_tick (s : State) : Frame [.delayTimer, .soundTimer] s s.tick := by
  intro c hc
  cases c with
  | delayTimer | soundTimer => exact absurd hc (by simp)
  | _ => rfl

/-- Settles O56: each timer takes one step down unless it is at zero. -/
theorem tickMovesBothTimersTowardZero : Obligations.TickMovesBothTimersTowardZero := fun s =>
  ⟨ticked_toNat s.dt, ticked_toNat s.st, s.frame_tick⟩

/-- Settles O50: reset meets it for every font, mode and place in the draws. -/
theorem resetMeetsTheInvariant : Obligations.ResetMeetsTheInvariant := Inv.resetWith _ _ _

end Sys2Proof.Machine
end
